-- ==== Sys2Proof/Word.lean ====
section
/-! DEFINITION. The word types of the CHIP-8 core (spec/00_scope.md R4: XLEN, ILEN, PCLEN, TLEN). -/

namespace Sys2Proof

/-- The contents of a V register, of a timer, of one byte of memory, of one display cell. -/
abbrev Byte := BitVec 8

/-- An opcode, and the contents of I, of PC and of a stack entry. -/
abbrev Word := BitVec 16

/-- A four-bit opcode field: the class, or N (R61). -/
abbrev Nibble := BitVec 4

/-- The 12-bit immediate NNN (R61). -/
abbrev Addr12 := BitVec 12

/-- The index of a general register, V0 to VF (R10): the value of an X or a Y field. -/
abbrev Reg := Fin 16

end Sys2Proof
end

