-- ==== Sys2Proof/Config.lean ====
section
/-! DEFINITION. What is fixed for the machine (spec/00_scope.md R4), and its two open parameters
(R5): RND, a free value with no body here, and FONT, an argument of LOAD_FONTSET whose default
table stands here for tests only. -/

namespace Sys2Proof.Config

/-- The highest address of MEM; MEM_SIZE is 4096 (R4, R40). -/
@[simp] abbrev memLast : Nat := 4095

/-- FONT_BASE (R4, R44). -/
@[simp] abbrev fontBase : Nat := 0x050

/-- FONT_SIZE (R4). -/
@[simp] abbrev fontSize : Nat := 80

/-- GLYPH_BYTES (R4). -/
@[simp] abbrev glyphBytes : Nat := 5

/-- ROM_BASE, also the reset value of PC (R4, R44). -/
@[simp] abbrev romBase : Nat := 0x200

/-- ROM_MAX, the most bytes LOAD_ROM copies (R4). -/
@[simp] abbrev romMax : Nat := 3584

/-- STACK_DEPTH (R4). -/
@[simp] abbrev stackDepth : Nat := 16

/-- DISP_W (R4). -/
@[simp] abbrev dispW : Nat := 64

/-- DISP_H (R4). -/
@[simp] abbrev dispH : Nat := 32

/-- PIXEL_OFF (R4). -/
@[simp] abbrev pixelOff : Byte := 0x00

/-- PIXEL_ON (R4). -/
@[simp] abbrev pixelOn : Byte := 0xFF

/-- RND (R5, R8, R111): the random bytes the outside delivers when the host has supplied none, one
for each draw.  A free value: it has no body, and no law is placed on it.
DESIGN CHOICE (log 3), safe. -/
opaque rnd : Nat → Byte

/-- Glyphs 0 to 7 of the default FONT (R181).  PRESUMED (log 4), unsafe: the source prints no bytes;
the table is general knowledge in the spec itself.  Nothing in the machine uses it. -/
def fontLow : List Byte :=
  [0xF0, 0x90, 0x90, 0x90, 0xF0,  0x20, 0x60, 0x20, 0x20, 0x70] ++
  [0xF0, 0x10, 0xF0, 0x80, 0xF0,  0xF0, 0x10, 0xF0, 0x10, 0xF0] ++
  [0x90, 0x90, 0xF0, 0x10, 0x10,  0xF0, 0x80, 0xF0, 0x10, 0xF0] ++
  [0xF0, 0x80, 0xF0, 0x90, 0xF0,  0xF0, 0x10, 0x20, 0x40, 0x40]

/-- Glyphs 8 to F of the default FONT (R181).  PRESUMED (log 4), unsafe. -/
def fontHigh : List Byte :=
  [0xF0, 0x90, 0xF0, 0x90, 0xF0,  0xF0, 0x90, 0xF0, 0x10, 0xF0] ++
  [0xF0, 0x90, 0xF0, 0x90, 0x90,  0xE0, 0x90, 0xE0, 0x90, 0xE0] ++
  [0xF0, 0x80, 0x80, 0x80, 0xF0,  0xE0, 0x90, 0x90, 0x90, 0xE0] ++
  [0xF0, 0x80, 0xF0, 0x80, 0xF0,  0xF0, 0x80, 0xF0, 0x80, 0x80]

/-- The default FONT of R181, 16 glyphs of 5 bytes.  PRESUMED (log 4), unsafe. -/
def defaultFont : Vector Byte 80 := ⟨(fontLow ++ fontHigh).toArray, by decide⟩

end Sys2Proof.Config
end

