-- ==== Sys2Proof/Syntax.lean ====
section
/-! DEFINITION. The instructions: one constructor for each row of spec/opcode_table.json, in its
order (spec/30_encoding.md R65, R66; spec/90_conflicts.md C1).  The hexadecimal pattern in each
docstring is the instruction's normative name (R68); the constructor's name follows the assembler
mnemonic of R65, PRESUMED (log 25), safe.  Operands are the fields of R61: a register number X or
Y, the immediates KK, NNN and N. -/

namespace Sys2Proof

inductive Instr where
  /-- `00E0` CLS -/
  | cls
  /-- `00EE` RET -/
  | ret
  /-- `1NNN` JP addr -/
  | jp (nnn : Addr12)
  /-- `2NNN` CALL addr -/
  | call (nnn : Addr12)
  /-- `3XKK` SE Vx, byte -/
  | seImm (x : Reg) (kk : Byte)
  /-- `4XKK` SNE Vx, byte -/
  | sneImm (x : Reg) (kk : Byte)
  /-- `5XY0` SE Vx, Vy -/
  | seReg (x y : Reg)
  /-- `6XKK` LD Vx, byte -/
  | ldImm (x : Reg) (kk : Byte)
  /-- `7XKK` ADD Vx, byte -/
  | addImm (x : Reg) (kk : Byte)
  /-- `8XY0` LD Vx, Vy -/
  | ldReg (x y : Reg)
  /-- `8XY1` OR Vx, Vy -/
  | orReg (x y : Reg)
  /-- `8XY2` AND Vx, Vy -/
  | andReg (x y : Reg)
  /-- `8XY3` XOR Vx, Vy -/
  | xorReg (x y : Reg)
  /-- `8XY4` ADD Vx, Vy -/
  | addReg (x y : Reg)
  /-- `8XY5` SUB Vx, Vy -/
  | subReg (x y : Reg)
  /-- `8XY6` SHR Vx; the Y field is free and ignored (R65) but kept, so that no bit is lost. -/
  | shr (x y : Reg)
  /-- `8XY7` SUBN Vx, Vy -/
  | subnReg (x y : Reg)
  /-- `8XYE` SHL Vx; the Y field is free and ignored (R65) but kept. -/
  | shl (x y : Reg)
  /-- `9XY0` SNE Vx, Vy -/
  | sneReg (x y : Reg)
  /-- `ANNN` LD I, addr -/
  | ldI (nnn : Addr12)
  /-- `BNNN` JP V0, addr -/
  | jpV0 (nnn : Addr12)
  /-- `CXKK` RND Vx, byte -/
  | rnd (x : Reg) (kk : Byte)
  /-- `DXYN` DRW Vx, Vy, nibble -/
  | drw (x y : Reg) (n : Nibble)
  /-- `EX9E` SKP Vx -/
  | skp (x : Reg)
  /-- `EXA1` SKNP Vx -/
  | sknp (x : Reg)
  /-- `FX07` LD Vx, DT -/
  | ldVxDt (x : Reg)
  /-- `FX0A` LD Vx, K -/
  | ldVxK (x : Reg)
  /-- `FX15` LD DT, Vx -/
  | ldDtVx (x : Reg)
  /-- `FX18` LD ST, Vx -/
  | ldStVx (x : Reg)
  /-- `FX1E` ADD I, Vx -/
  | addI (x : Reg)
  /-- `FX29` LD F, Vx -/
  | ldF (x : Reg)
  /-- `FX33` LD B, Vx -/
  | ldB (x : Reg)
  /-- `FX55` LD [I], Vx -/
  | stRegs (x : Reg)
  /-- `FX65` LD Vx, [I] -/
  | ldRegs (x : Reg)
  /-- NULL, the no-op of every word that matches no pattern (R66, R88).  It carries the word, as
  `DW word` would place it (R69), so that decoding loses no bit.  DESIGN CHOICE (log 7), safe. -/
  | null (word : Word)
  deriving DecidableEq, Repr

end Sys2Proof
end

