-- ==== Sys2Proof/Machine/State.lean ====
section
/-! DEFINITION. The state of the core (spec/10_state.md), the faults it raises
(spec/60_exceptions.md R160) and the state after RESET (R30). -/

namespace Sys2Proof.Machine

/-- The kind of a MEM access, recorded by MemoryFault (R160). -/
inductive AccessKind where
  | fetch
  | read
  | write
  deriving DecidableEq, Repr

/-- The faults of the core (R160), each with the info the FAULT latch records.  A CYCLE that raises
one takes it: the next state is the old one with the latch set (R166), so no step answers the
outcome `fault` of Host.Outcome (log 5). -/
inductive Fault where
  /-- Code 1.  Raised by the fetch, by `DXYN` and `FX65` (read), by `FX33` and `FX55` (write), when
  an address of the access range is above 4095; `addr` is the lowest such address (R161).  Safe: the
  original's behaviour there is undefined (D2, log 15). -/
  | memoryFault (kind : AccessKind) (addr : Nat)
  /-- Code 2.  Raised by `2NNN` when SP = 16 (R162).  Safe: the original corrupts memory (D1,
  log 16). -/
  | stackOverflow
  /-- Code 3.  Raised by `00EE` when SP = 0 (R163).  Safe (D1, log 16). -/
  | stackUnderflow
  /-- Code 4.  Raised by `EX9E` and `EXA1` when vx > 15 (R164).  Safe: the source gives the case no
  meaning (D5, log 17). -/
  | keyIndexFault (vx : Byte)
  deriving DecidableEq, Repr

/-- Why an instruction has no meaning in the model. -/
inductive Refusal where
  /-- Answered by an arm of `exec` whose instruction has no meaning yet; no arm does.  Safe. -/
  | notModelled (mnemonic : String)
  deriving DecidableEq, Repr

/-- An array of bytes held sparsely: (index, byte) pairs in one canonical form, `Memory.wf`, an
unlisted index reading as 0x00 (log 1).  MEM (R21) and DISP (R20) are held so. -/
abbrev Memory := List Host.Cell

/-- All the state of the machine (R10 to R26); the last two fields are the model's own. -/
structure State where
  /-- V0 to VF (R10). -/
  v : Vector Byte 16
  /-- The index register I (R13). -/
  i : Word
  /-- The program counter PC (R14). -/
  pc : Word
  /-- The return stack STACK (R17). -/
  stack : Vector Word 16
  /-- The stack pointer SP, the index of the next free slot, 0 to 16 (R17; log 12). -/
  sp : Fin 17
  /-- The delay timer DT (R18). -/
  dt : Byte
  /-- The sound timer ST (R18). -/
  st : Byte
  /-- Main memory MEM, addresses 0 to 4095 (R21, R40). -/
  mem : Memory
  /-- The display buffer DISP, cells 0 to 2047, the pixel (x, y) in cell y * 64 + x (R20). -/
  disp : Memory
  /-- The keypad KEY, true = down; the host writes it, the core never does (R19; log 13). -/
  key : Vector Bool 16
  /-- The FAULT latch (R23). -/
  fault : Option Fault
  /-- The model's own: random bytes the host has supplied and no `CXKK` has consumed, oldest first
  (R111; log 3). -/
  rndIn : List Byte
  /-- The model's own: how many free random bytes (`Config.rnd`) have been drawn (R111; log 3). -/
  rndDrawn : Nat
  deriving DecidableEq, Repr

/-- The state right after RESET (R30, R180).  MEM and PC are the source's own; the other values are
the spec's decision D10 (log 2), and those of `rndIn` and `rndDrawn` are the model's (log 3). -/
def State.reset : State where
  v := Vector.replicate 16 0
  i := 0
  pc := 0x0200
  stack := Vector.replicate 16 0
  sp := 0
  dt := 0
  st := 0
  mem := []
  disp := []
  key := Vector.replicate 16 false
  fault := none
  rndIn := []
  rndDrawn := 0

/-- What a step, and the meaning of an instruction, answers. -/
abbrev Result := Host.Outcome State Fault Refusal

end Sys2Proof.Machine
end

