-- ==== Sys2Proof/Machine/Operands.lean ====
section
/-! DEFINITION. Reading and writing the registers, and the operand forms of the instructions
(spec/00_scope.md section 6.2, spec/30_encoding.md R63).  Every read and write of a register goes
through here. -/

namespace Sys2Proof.Machine

/-- V0, which `BNNN` adds to its target (R11). -/
@[simp] abbrev regV0 : Reg := 0

/-- VF, the only flag of the machine (R12). -/
@[simp] abbrev regVF : Reg := 15

/-- V[x] (R10): no register is hard-wired. -/
def State.reg (s : State) (x : Reg) : Byte := s.v[x]

/-- V[x] <- b (R10). -/
def State.setReg (s : State) (x : Reg) (b : Byte) : State := { s with v := s.v.set x b }

/-- I <- a (R13). -/
def State.setI (s : State) (a : Word) : State := { s with i := a }

/-- PC <- a (R14). -/
def State.setPc (s : State) (a : Word) : State := { s with pc := a }

/-- DT <- b (R18). -/
def State.setDt (s : State) (b : Byte) : State := { s with dt := b }

/-- ST <- b (R18). -/
def State.setSt (s : State) (b : Byte) : State := { s with st := b }

/-- MEM after the writes of an instruction (R21). -/
def State.setMem (s : State) (m : Memory) : State := { s with mem := m }

/-- DISP after the writes of an instruction (R20). -/
def State.setDisp (s : State) (d : Memory) : State := { s with disp := d }

/-- STACK and SP (R17). -/
def State.setStack (s : State) (st : Vector Word 16) (sp : Fin 17) : State :=
  { s with stack := st, sp := sp }

/-- KEY <- k (R19); the host's SET_KEYS only. -/
def State.setKey (s : State) (k : Vector Bool 16) : State := { s with key := k }

/-- FAULT <- f (R23). -/
def State.setFault (s : State) (f : Fault) : State := { s with fault := some f }

/-- NNN as a 16-bit value: zero-extended (R63). -/
def zext12 (nnn : Addr12) : Word := nnn.setWidth 16

/-- A byte as a 16-bit value: zero-extended (R121). -/
def zext8 (b : Byte) : Word := b.setWidth 16

/-- `BNNN`'s target, NNN + v0, not reduced modulo 4096 (R93). -/
def offsetTarget (nnn : Addr12) (v0 : Byte) : Word := BitVec.ofNat 16 (nnn.toNat + v0.toNat)

/-- The address of the glyph of vx, 0x050 + 5 * vx with the whole vx (R122; D15, log 9). -/
def glyphAddr (vx : Byte) : Word :=
  BitVec.ofNat 16 (Config.fontBase + Config.glyphBytes * vx.toNat)

/-- i0, the first effective address of an access through I, on unbounded integers (R42, D29). -/
def State.baseAddr (s : State) : Nat := s.i.toNat

/-- The decimal digits of vx, hundreds first (R123). -/
def bcdDigits (vx : Byte) : List Byte :=
  [BitVec.ofNat 8 (vx.toNat / 100), BitVec.ofNat 8 (vx.toNat / 10 % 10),
    BitVec.ofNat 8 (vx.toNat % 10)]

/-- V[0] to V[n-1] (R124). -/
def State.firstRegs (s : State) (n : Nat) : List Byte := s.v.toList.take n

/-- V[k] and the registers after it <- the bytes, in ascending order (R125). -/
def setRegsFrom (v : Vector Byte 16) (k : Nat) : List Byte → Vector Byte 16
  | [] => v
  | b :: bs => setRegsFrom (v.setIfInBounds k b) (k + 1) bs

/-- V[0] onward <- the bytes (R125). -/
def State.setFirstRegs (s : State) (bs : List Byte) : State := { s with v := setRegsFrom s.v 0 bs }

/-- The byte RND of the next `CXKK` (R111): the oldest the host has supplied, else a free value
(log 3). -/
def State.rndByte (s : State) : Byte :=
  match s.rndIn with
  | b :: _ => b
  | [] => Config.rnd s.rndDrawn

/-- One byte of RND is consumed (R111). -/
def State.consumeRnd (s : State) : State :=
  match s.rndIn with
  | _ :: bs => { s with rndIn := bs }
  | [] => { s with rndDrawn := s.rndDrawn + 1 }

end Sys2Proof.Machine
end

