-- ==== Sys2Proof/Machine/Flags.lean ====
section
/-! DEFINITION. The values written to VF (spec/10_state.md R12), and the two orders in which an
arithmetic instruction writes VX and VF (spec/40_cycle.md R86). -/

namespace Sys2Proof.Machine

/-- A flag as the byte VF receives: 1 or 0 (R12). -/
def flagByte (c : Bool) : Byte := if c then 1 else 0

/-- `8XY4`: carry out, vx + vy > 255 (R106). -/
def carryOut (vx vy : Byte) : Bool := vx.toNat + vy.toNat > 255

/-- `8XY5`, `8XY7`: the first operand is strictly greater, unsigned (R107, R109). -/
def strictlyGreater (a b : Byte) : Bool := a.toNat > b.toNat

/-- `8XY6`: the bit a right shift by one moves out, vx[0] (R108). -/
def lowBitOut (vx : Byte) : Bool := vx.getLsbD 0

/-- `8XYE`: the bit a left shift by one moves out, vx[7] (R110). -/
def highBitOut (vx : Byte) : Bool := vx.getLsbD 7

/-- VX first, then VF: with X = 15, VF keeps the flag (R86, `8XY4`). -/
def State.setResultThenFlag (s : State) (x : Reg) (r : Byte) (c : Bool) : State :=
  (s.setReg x r).setReg regVF (flagByte c)

/-- VF first, then VX: with X = 15, VF keeps the result (R86, `8XY5` `8XY6` `8XY7` `8XYE`). -/
def State.setFlagThenResult (s : State) (x : Reg) (r : Byte) (c : Bool) : State :=
  (s.setReg regVF (flagByte c)).setReg x r

end Sys2Proof.Machine
end

