-- ==== Sys2Proof/Machine/Alu.lean ====
section
/-! DEFINITION. Load, arithmetic, logic, shift and random (spec/42_alu.md).  Operands are sampled
from the state the instruction starts in (spec/40_cycle.md R85). -/

namespace Sys2Proof.Machine

/-- `6XKK` LD Vx, byte (R100). -/
def execLdImm (x : Reg) (kk : Byte) (s : State) : Result := .next (s.setReg x kk)

/-- `7XKK` ADD Vx, byte: wraps, no flag (R101). -/
def execAddImm (x : Reg) (kk : Byte) (s : State) : Result := .next (s.setReg x (s.reg x + kk))

/-- `8XY0` LD Vx, Vy (R102). -/
def execLdReg (x y : Reg) (s : State) : Result := .next (s.setReg x (s.reg y))

/-- `8XY1` OR Vx, Vy: no flag (R103). -/
def execOrReg (x y : Reg) (s : State) : Result := .next (s.setReg x (s.reg x ||| s.reg y))

/-- `8XY2` AND Vx, Vy: no flag (R104). -/
def execAndReg (x y : Reg) (s : State) : Result := .next (s.setReg x (s.reg x &&& s.reg y))

/-- `8XY3` XOR Vx, Vy: no flag (R105). -/
def execXorReg (x y : Reg) (s : State) : Result := .next (s.setReg x (s.reg x ^^^ s.reg y))

/-- `8XY4` ADD Vx, Vy: VX, then VF <- carry (R106). -/
def execAddReg (x y : Reg) (s : State) : Result :=
  .next (s.setResultThenFlag x (s.reg x + s.reg y) (carryOut (s.reg x) (s.reg y)))

/-- `8XY5` SUB Vx, Vy: VF <- (vx > vy), then VX (R107). -/
def execSubReg (x y : Reg) (s : State) : Result :=
  .next (s.setFlagThenResult x (s.reg x - s.reg y) (strictlyGreater (s.reg x) (s.reg y)))

/-- `8XY6` SHR Vx: VF <- vx[0], then VX; VY is neither read nor written (R108). -/
def execShr (x _y : Reg) (s : State) : Result :=
  .next (s.setFlagThenResult x (s.reg x >>> 1) (lowBitOut (s.reg x)))

/-- `8XY7` SUBN Vx, Vy: VF <- (vy > vx), then VX (R109). -/
def execSubnReg (x y : Reg) (s : State) : Result :=
  .next (s.setFlagThenResult x (s.reg y - s.reg x) (strictlyGreater (s.reg y) (s.reg x)))

/-- `8XYE` SHL Vx: VF <- vx[7], then VX; VY is neither read nor written (R110). -/
def execShl (x _y : Reg) (s : State) : Result :=
  .next (s.setFlagThenResult x (s.reg x <<< 1) (highBitOut (s.reg x)))

/-- `CXKK` RND Vx, byte: one byte of RND is consumed (R111; log 3). -/
def execRnd (x : Reg) (kk : Byte) (s : State) : Result :=
  .next (s.consumeRnd.setReg x (s.rndByte &&& kk))

end Sys2Proof.Machine
end

