-- ==== Sys2Proof/WellFormed.lean ====
section
/-! DEFINITION. Which terms are instructions.  The operand types carry every bound of R61 but one:
NULL is the instruction of the NULL space only (spec/30_encoding.md R66). -/

namespace Sys2Proof

/-- The NULL space, class by class, as the table of R66 lists it. -/
def isNullWord (w : Word) : Bool :=
  let kk := w.toNat % 256
  let n := w.toNat % 16
  match w.toNat / 4096 with
  | 0 => w != 0x00E0 && w != 0x00EE
  | 5 => n != 0
  | 8 => [8, 9, 0xA, 0xB, 0xC, 0xD, 0xF].contains n
  | 9 => n != 0
  | 0xE => !([0x9E, 0xA1].contains kk)
  | 0xF => !([0x07, 0x0A, 0x15, 0x18, 0x1E, 0x29, 0x33, 0x55, 0x65].contains kk)
  | _ => false

/-- An instruction is well formed when its operands are ones an opcode can give it. -/
def Instr.wellFormed : Instr → Bool
  | .null w => isNullWord w
  | .cls => true
  | .ret => true
  | .jp _ => true
  | .call _ => true
  | .seImm _ _ => true
  | .sneImm _ _ => true
  | .seReg _ _ => true
  | .ldImm _ _ => true
  | .addImm _ _ => true
  | .ldReg _ _ => true
  | .orReg _ _ => true
  | .andReg _ _ => true
  | .xorReg _ _ => true
  | .addReg _ _ => true
  | .subReg _ _ => true
  | .shr _ _ => true
  | .subnReg _ _ => true
  | .shl _ _ => true
  | .sneReg _ _ => true
  | .ldI _ => true
  | .jpV0 _ => true
  | .rnd _ _ => true
  | .drw _ _ _ => true
  | .skp _ => true
  | .sknp _ => true
  | .ldVxDt _ => true
  | .ldVxK _ => true
  | .ldDtVx _ => true
  | .ldStVx _ => true
  | .addI _ => true
  | .ldF _ => true
  | .ldB _ => true
  | .stRegs _ => true
  | .ldRegs _ => true

end Sys2Proof
end

