-- ==== Sys2Proof/Decode.lean ====
section
/-! DEFINITION. Decoding and encoding (spec/30_encoding.md R60 to R67).  `decodeWord` dispatches on
the class nibble and then on the low nibble or byte, as R64 describes the decoder; `opcodeRows` is
the opcode map of R65 as data; `encode` fills the formats of R62.  The three are written
separately from the spec's three tables, so that their agreement is a theorem. -/

namespace Sys2Proof

/-- op[15:12] (R61). -/
def fieldClass (w : Word) : Nibble := w.extractLsb' 12 4

/-- X = op[11:8] (R61). -/
def fieldX (w : Word) : Reg := (w.extractLsb' 8 4).toFin

/-- Y = op[7:4] (R61). -/
def fieldY (w : Word) : Reg := (w.extractLsb' 4 4).toFin

/-- N = op[3:0] (R61). -/
def fieldN (w : Word) : Nibble := w.extractLsb' 0 4

/-- KK = op[7:0] (R61). -/
def fieldKK (w : Word) : Byte := w.extractLsb' 0 8

/-- NNN = op[11:0] (R61). -/
def fieldNNN (w : Word) : Addr12 := w.extractLsb' 0 12

/-- Class 0: the two FIXED words; every other word is NULL (R65, R66). -/
def decodeClass0 (w : Word) : Instr :=
  if w = 0x00E0 then .cls
  else if w = 0x00EE then .ret
  else .null w

/-- Class 8, told apart by N (R65, R66). -/
def decodeClass8 (w : Word) : Instr :=
  match (fieldN w).toNat with
  | 0x0 => .ldReg (fieldX w) (fieldY w)
  | 0x1 => .orReg (fieldX w) (fieldY w)
  | 0x2 => .andReg (fieldX w) (fieldY w)
  | 0x3 => .xorReg (fieldX w) (fieldY w)
  | 0x4 => .addReg (fieldX w) (fieldY w)
  | 0x5 => .subReg (fieldX w) (fieldY w)
  | 0x6 => .shr (fieldX w) (fieldY w)
  | 0x7 => .subnReg (fieldX w) (fieldY w)
  | 0xE => .shl (fieldX w) (fieldY w)
  | _ => .null w

/-- Class E, told apart by the low byte (R65, R66). -/
def decodeClassE (w : Word) : Instr :=
  match (fieldKK w).toNat with
  | 0x9E => .skp (fieldX w)
  | 0xA1 => .sknp (fieldX w)
  | _ => .null w

/-- Class F, told apart by the low byte (R65, R66). -/
def decodeClassF (w : Word) : Instr :=
  match (fieldKK w).toNat with
  | 0x07 => .ldVxDt (fieldX w)
  | 0x0A => .ldVxK (fieldX w)
  | 0x15 => .ldDtVx (fieldX w)
  | 0x18 => .ldStVx (fieldX w)
  | 0x1E => .addI (fieldX w)
  | 0x29 => .ldF (fieldX w)
  | 0x33 => .ldB (fieldX w)
  | 0x55 => .stRegs (fieldX w)
  | 0x65 => .ldRegs (fieldX w)
  | _ => .null w

/-- Decode (R64): a total function from the 65536 opcodes to the 35 instructions.  A printed digit
of a pattern is fixed, so `5XYN` and `9XYN` with N not 0 are NULL (R66, 90_conflicts.md C5; log 7). -/
def decodeWord (w : Word) : Instr :=
  match (fieldClass w).toNat with
  | 0x0 => decodeClass0 w
  | 0x1 => .jp (fieldNNN w)
  | 0x2 => .call (fieldNNN w)
  | 0x3 => .seImm (fieldX w) (fieldKK w)
  | 0x4 => .sneImm (fieldX w) (fieldKK w)
  | 0x5 => if fieldN w = 0 then .seReg (fieldX w) (fieldY w) else .null w
  | 0x6 => .ldImm (fieldX w) (fieldKK w)
  | 0x7 => .addImm (fieldX w) (fieldKK w)
  | 0x8 => decodeClass8 w
  | 0x9 => if fieldN w = 0 then .sneReg (fieldX w) (fieldY w) else .null w
  | 0xA => .ldI (fieldNNN w)
  | 0xB => .jpV0 (fieldNNN w)
  | 0xC => .rnd (fieldX w) (fieldKK w)
  | 0xD => .drw (fieldX w) (fieldY w) (fieldN w)
  | 0xE => decodeClassE w
  | _ => decodeClassF w

/-- The opcode of two consecutive bytes, the first the high one (R46, R60). -/
def joinBytes (hi lo : Byte) : Word := hi ++ lo

/-- The high byte of an opcode, the one at the lower address (R60). -/
def highByte (w : Word) : Byte := w.extractLsb' 8 8

/-- The low byte of an opcode (R60). -/
def lowByte (w : Word) : Byte := w.extractLsb' 0 8

/-- Why a list of bytes holds no instruction. -/
inductive DecodeError where
  /-- Fewer than the two bytes of an instruction (R60).  The machine never meets it: a fetch reads
  two bytes or takes MemoryFault.  DESIGN CHOICE (log 24), safe. -/
  | truncated
  deriving DecidableEq, Repr

/-- Decode the instruction at the head of a list of bytes, giving the rest back (R60). -/
def decode : List Byte → Except DecodeError (Instr × List Byte)
  | hi :: lo :: rest => .ok (decodeWord (joinBytes hi lo), rest)
  | _ => .error .truncated

/-- The two bytes, as the hardware stores them, of an instruction whose low `nbits` bits are those
of `w` and whose other bits are 0 (R60). -/
def tableBytes (nbits w : Nat) : List Byte :=
  let op : Word := BitVec.ofNat 16 (w % 2 ^ nbits)
  [highByte op, lowByte op]

/-- The instruction the decoder reads from the opcode whose bits, numbered as
spec/opcode_table.json numbers them, are `w` (log 24). -/
def decodeTableWord (nbits w : Nat) : Option Instr :=
  match decode (tableBytes nbits w) with
  | .ok (i, _) => some i
  | .error _ => none

/-- A register number as the four bits of its field (R61). -/
def regBits (x : Reg) : Nibble := BitVec.ofNat 4 x.val

/-- Formats XY and XYN, and with a fixed sub-opcode format X (R62). -/
def packXYN (c : Nibble) (x y : Reg) (n : Nibble) : Word :=
  c ++ regBits x ++ regBits y ++ n

/-- Formats XKK and X (R62). -/
def packXKK (c : Nibble) (x : Reg) (kk : Byte) : Word := c ++ regBits x ++ kk

/-- Format NNN (R62). -/
def packNNN (c : Nibble) (nnn : Addr12) : Word := c ++ nnn

/-- The opcode of an instruction: its pattern with the operands in the letters' places (R62, R65,
R68). -/
def encode : Instr → Word
  | .cls => 0x00E0
  | .ret => 0x00EE
  | .jp nnn => packNNN 0x1 nnn
  | .call nnn => packNNN 0x2 nnn
  | .seImm x kk => packXKK 0x3 x kk
  | .sneImm x kk => packXKK 0x4 x kk
  | .seReg x y => packXYN 0x5 x y 0x0
  | .ldImm x kk => packXKK 0x6 x kk
  | .addImm x kk => packXKK 0x7 x kk
  | .ldReg x y => packXYN 0x8 x y 0x0
  | .orReg x y => packXYN 0x8 x y 0x1
  | .andReg x y => packXYN 0x8 x y 0x2
  | .xorReg x y => packXYN 0x8 x y 0x3
  | .addReg x y => packXYN 0x8 x y 0x4
  | .subReg x y => packXYN 0x8 x y 0x5
  | .shr x y => packXYN 0x8 x y 0x6
  | .subnReg x y => packXYN 0x8 x y 0x7
  | .shl x y => packXYN 0x8 x y 0xE
  | .sneReg x y => packXYN 0x9 x y 0x0
  | .ldI nnn => packNNN 0xA nnn
  | .jpV0 nnn => packNNN 0xB nnn
  | .rnd x kk => packXKK 0xC x kk
  | .drw x y n => packXYN 0xD x y n
  | .skp x => packXKK 0xE x 0x9E
  | .sknp x => packXKK 0xE x 0xA1
  | .ldVxDt x => packXKK 0xF x 0x07
  | .ldVxK x => packXKK 0xF x 0x0A
  | .ldDtVx x => packXKK 0xF x 0x15
  | .ldStVx x => packXKK 0xF x 0x18
  | .addI x => packXKK 0xF x 0x1E
  | .ldF x => packXKK 0xF x 0x29
  | .ldB x => packXKK 0xF x 0x33
  | .stRegs x => packXKK 0xF x 0x55
  | .ldRegs x => packXKK 0xF x 0x65
  | .null w => w

/-- The two bytes of an instruction as they stand in memory, high byte first (R60). -/
def encodeBytes (i : Instr) : List Byte := [highByte (encode i), lowByte (encode i)]

/-- One row of the opcode map: an opcode selects it when `op & mask == pat` (R65). -/
structure OpcodeRow where
  name : String
  mask : Word
  pat : Word
  deriving DecidableEq, Repr

/-- Does the opcode select the row (R65)? -/
def OpcodeRow.selects (r : OpcodeRow) (w : Word) : Bool := w &&& r.mask == r.pat

/-- The opcode map of R65, classes 0 to 7. -/
def opcodeRowsLow : List OpcodeRow :=
  [⟨"00E0", 0xFFFF, 0x00E0⟩, ⟨"00EE", 0xFFFF, 0x00EE⟩, ⟨"1NNN", 0xF000, 0x1000⟩] ++
  [⟨"2NNN", 0xF000, 0x2000⟩, ⟨"3XKK", 0xF000, 0x3000⟩, ⟨"4XKK", 0xF000, 0x4000⟩] ++
  [⟨"5XY0", 0xF00F, 0x5000⟩, ⟨"6XKK", 0xF000, 0x6000⟩, ⟨"7XKK", 0xF000, 0x7000⟩]

/-- The opcode map of R65, class 8. -/
def opcodeRows8 : List OpcodeRow :=
  [⟨"8XY0", 0xF00F, 0x8000⟩, ⟨"8XY1", 0xF00F, 0x8001⟩, ⟨"8XY2", 0xF00F, 0x8002⟩] ++
  [⟨"8XY3", 0xF00F, 0x8003⟩, ⟨"8XY4", 0xF00F, 0x8004⟩, ⟨"8XY5", 0xF00F, 0x8005⟩] ++
  [⟨"8XY6", 0xF00F, 0x8006⟩, ⟨"8XY7", 0xF00F, 0x8007⟩, ⟨"8XYE", 0xF00F, 0x800E⟩]

/-- The opcode map of R65, classes 9 to E. -/
def opcodeRowsMid : List OpcodeRow :=
  [⟨"9XY0", 0xF00F, 0x9000⟩, ⟨"ANNN", 0xF000, 0xA000⟩, ⟨"BNNN", 0xF000, 0xB000⟩] ++
  [⟨"CXKK", 0xF000, 0xC000⟩, ⟨"DXYN", 0xF000, 0xD000⟩] ++
  [⟨"EX9E", 0xF0FF, 0xE09E⟩, ⟨"EXA1", 0xF0FF, 0xE0A1⟩]

/-- The opcode map of R65, class F. -/
def opcodeRowsF : List OpcodeRow :=
  [⟨"FX07", 0xF0FF, 0xF007⟩, ⟨"FX0A", 0xF0FF, 0xF00A⟩, ⟨"FX15", 0xF0FF, 0xF015⟩] ++
  [⟨"FX18", 0xF0FF, 0xF018⟩, ⟨"FX1E", 0xF0FF, 0xF01E⟩, ⟨"FX29", 0xF0FF, 0xF029⟩] ++
  [⟨"FX33", 0xF0FF, 0xF033⟩, ⟨"FX55", 0xF0FF, 0xF055⟩, ⟨"FX65", 0xF0FF, 0xF065⟩]

/-- The 34 rows of the opcode map, in priority order (R64, R65). -/
def opcodeRows : List OpcodeRow := opcodeRowsLow ++ opcodeRows8 ++ opcodeRowsMid ++ opcodeRowsF

/-- The name of the first row the opcode selects, NULL when it selects none (R64, R65). -/
def rowName (w : Word) : String :=
  match opcodeRows.find? (fun r => r.selects w) with
  | some r => r.name
  | none => "NULL"

/-- An instruction's normative name, its pattern (R68). -/
def Instr.pattern : Instr → String
  | .cls => "00E0"
  | .ret => "00EE"
  | .jp _ => "1NNN"
  | .call _ => "2NNN"
  | .seImm _ _ => "3XKK"
  | .sneImm _ _ => "4XKK"
  | .seReg _ _ => "5XY0"
  | .ldImm _ _ => "6XKK"
  | .addImm _ _ => "7XKK"
  | .ldReg _ _ => "8XY0"
  | .orReg _ _ => "8XY1"
  | .andReg _ _ => "8XY2"
  | .xorReg _ _ => "8XY3"
  | .addReg _ _ => "8XY4"
  | .subReg _ _ => "8XY5"
  | .shr _ _ => "8XY6"
  | .subnReg _ _ => "8XY7"
  | .shl _ _ => "8XYE"
  | .sneReg _ _ => "9XY0"
  | .ldI _ => "ANNN"
  | .jpV0 _ => "BNNN"
  | .rnd _ _ => "CXKK"
  | .drw _ _ _ => "DXYN"
  | .skp _ => "EX9E"
  | .sknp _ => "EXA1"
  | .ldVxDt _ => "FX07"
  | .ldVxK _ => "FX0A"
  | .ldDtVx _ => "FX15"
  | .ldStVx _ => "FX18"
  | .addI _ => "FX1E"
  | .ldF _ => "FX29"
  | .ldB _ => "FX33"
  | .stRegs _ => "FX55"
  | .ldRegs _ => "FX65"
  | .null _ => "NULL"

end Sys2Proof
end

