-- ==== Sys2Proof/Machine/Ops.lean ====
section
/-! DEFINITION. The operations the instructions share: sparse byte arrays, bounds-checked access to
MEM (spec/20_memory.md R42, R43), taking a fault (spec/60_exceptions.md R166), the return stack
(spec/10_state.md R17), skips, and the parts of CYCLE around the instruction (spec/40_cycle.md
R80 to R84). -/

namespace Sys2Proof.Machine

/-! ## Sparse byte arrays (log 1) -/

/-- The canonical form: indexes strictly rising, and no entry equal to what an unlisted index reads
as. -/
abbrev Memory.wf (m : Memory) : Prop :=
  m.Pairwise (fun c d => c.1 < d.1) ∧ ∀ c ∈ m, c.2 ≠ 0

/-- Every listed index is below `n`. -/
abbrev Memory.below (m : Memory) (n : Nat) : Prop := ∀ c ∈ m, c.1 < n

/-- The byte at an index; an unlisted one reads as 0x00, the reset contents of MEM and of DISP
(R30). -/
def Memory.read (m : Memory) (a : Nat) : Byte :=
  match m with
  | [] => 0
  | (a', b) :: m' => if a' = a then b else Memory.read m' a

/-- Insert an entry before the first entry of a higher index. -/
def Memory.insertCell (a : Nat) (b : Byte) (m : Memory) : Memory :=
  match m with
  | [] => [(a, b)]
  | (a', b') :: m' =>
    if a < a' then (a, b) :: (a', b') :: m' else (a', b') :: Memory.insertCell a b m'

/-- Write one byte; writing 0x00 removes the entry. -/
def Memory.write (m : Memory) (a : Nat) (b : Byte) : Memory :=
  let others := m.filter (fun c => c.1 != a)
  if b = 0 then others else Memory.insertCell a b others

/-- `n` bytes from `lo` upward. -/
def Memory.readBytes (m : Memory) (lo : Nat) : Nat → List Byte
  | 0 => []
  | n + 1 => m.read lo :: Memory.readBytes m (lo + 1) n

/-- Write bytes from `lo` upward, in ascending order. -/
def Memory.writeBytes (m : Memory) (lo : Nat) : List Byte → Memory
  | [] => m
  | b :: bs => Memory.writeBytes (m.write lo b) (lo + 1) bs

/-! ## Taking a fault -/

/-- Fault entry (R166): every change of the CYCLE is discarded and FAULT is set.  `before` is the
state the CYCLE began in.  There is no vector, no saved PC, no mode. -/
def takeFault (f : Fault) (before : State) : Result := .next (before.setFault f)

/-- PC is advanced by 2 after fetch and before the instruction executes (R82). -/
def State.preIncrement (s : State) : State := s.setPc (s.pc + 2)

/-- The state before the pre-increment: PC is the address the instruction was fetched from. -/
def State.undoPreIncrement (s : State) : State := s.setPc (s.pc - 2)

/-- `raise` inside an instruction (00_scope.md 6.4): all checks come before the first write (R87),
so only the pre-increment is there to discard (R166; log 6). -/
def raiseFault (f : Fault) (s : State) : Result := takeFault f s.undoPreIncrement

/-- There is no return from a fault (R170): with FAULT set, CYCLE returns the latched fault and
changes nothing (R80). -/
def stayFaulted (s : State) : Result := .next s

/-! ## Bounds-checked access to MEM -/

/-- `CheckRange(lo, n, kind)` (00_scope.md 6.3, R42, R43): the fault of an access to `n` bytes from
`lo`, on unbounded integers, or none. -/
def checkRange (kind : AccessKind) (lo n : Nat) : Option Fault :=
  if n > 0 ∧ lo + n - 1 > Config.memLast then
    some (.memoryFault kind (max lo (Config.memLast + 1)))
  else none

/-- An access to a whole range: raise its fault, or go on to `done` (R43, R87). -/
def guardRange (kind : AccessKind) (lo n : Nat) (s done : State) : Result :=
  match checkRange kind lo n with
  | some f => raiseFault f s
  | none => .next done

/-- `n` bytes of MEM from `lo` (R42); used after `guardRange` has admitted the range. -/
def State.loadBytes (s : State) (lo n : Nat) : List Byte := s.mem.readBytes lo n

/-- Bytes to MEM from `lo`, in ascending order (R42); used after `guardRange`. -/
def State.storeBytes (s : State) (lo : Nat) (bs : List Byte) : State :=
  s.setMem (s.mem.writeBytes lo bs)

/-! ## The return stack -/

/-- Push a return address; none when SP = 16 (R92, R162). -/
def State.pushReturn (s : State) (a : Word) : Option State :=
  if h : s.sp.val < Config.stackDepth then
    some (s.setStack (s.stack.set s.sp.val a h)
      ⟨s.sp.val + 1, by simp only [Config.stackDepth] at h; omega⟩)
  else none

/-- Pop the return address; none when SP = 0.  The popped entry keeps its value (R90, R163). -/
def State.popReturn (s : State) : Option (Word × State) :=
  if h : s.sp.val = 0 then none
  else some (s.stack[s.sp.val - 1]'(by omega), s.setStack s.stack ⟨s.sp.val - 1, by omega⟩)

/-! ## Skips -/

/-- Skip the next instruction if the condition holds: PC <- PC + 2 on top of the pre-increment
(R82, R94). -/
def State.skipIf (s : State) (c : Bool) : State := if c then s.setPc (s.pc + 2) else s

/-! ## CYCLE around the instruction -/

/-- Fetch (R81): the two bytes at PC, big-endian, or MemoryFault(fetch).  No side effect. -/
def fetch (s : State) : Except Fault Word :=
  match checkRange .fetch s.pc.toNat 2 with
  | some f => .error f
  | none => .ok (joinBytes (s.mem.read s.pc.toNat) (s.mem.read (s.pc.toNat + 1)))

/-- One tick of a timer: down by 1 while above 0 (R84). -/
def tickTimer (t : Byte) : Byte := if t = 0 then 0 else t - 1

/-- The timer tick, DT and ST independently (R84). -/
def State.tick (s : State) : State := (s.setDt (tickTimer s.dt)).setSt (tickTimer s.st)

/-- The end of a CYCLE: the timers tick unless the instruction raised a fault (R80, R84). -/
def endCycle : Result → Result
  | .next t => .next (if t.fault = none then t.tick else t)
  | .fault f => .fault f
  | .refused r => .refused r

end Sys2Proof.Machine
end

