-- ==== Sys2Proof/Machine/ControlFlow.lean ====
section
/-! DEFINITION. Control transfer (spec/41_control_flow.md), and NULL (spec/40_cycle.md R88).  When a
meaning runs, PC already holds the fetch address + 2 (R82). -/

namespace Sys2Proof.Machine

/-- `00EE` RET (R90). -/
def execRet (s : State) : Result :=
  match s.popReturn with
  | none => raiseFault .stackUnderflow s
  | some (a, t) => .next (t.setPc a)

/-- `1NNN` JP addr (R91). -/
def execJp (nnn : Addr12) (s : State) : Result := .next (s.setPc (zext12 nnn))

/-- `2NNN` CALL addr (R92). -/
def execCall (nnn : Addr12) (s : State) : Result :=
  match s.pushReturn s.pc with
  | none => raiseFault .stackOverflow s
  | some t => .next (t.setPc (zext12 nnn))

/-- `BNNN` JP V0, addr (R93). -/
def execJpV0 (nnn : Addr12) (s : State) : Result :=
  .next (s.setPc (offsetTarget nnn (s.reg regV0)))

/-- `3XKK` SE Vx, byte (R94). -/
def execSeImm (x : Reg) (kk : Byte) (s : State) : Result := .next (s.skipIf (s.reg x == kk))

/-- `4XKK` SNE Vx, byte (R95). -/
def execSneImm (x : Reg) (kk : Byte) (s : State) : Result := .next (s.skipIf (s.reg x != kk))

/-- `5XY0` SE Vx, Vy (R96). -/
def execSeReg (x y : Reg) (s : State) : Result := .next (s.skipIf (s.reg x == s.reg y))

/-- `9XY0` SNE Vx, Vy (R97). -/
def execSneReg (x y : Reg) (s : State) : Result := .next (s.skipIf (s.reg x != s.reg y))

/-- NULL: nothing; all 16 bits of the opcode are ignored (R88). -/
def execNull (_word : Word) (s : State) : Result := .next s

end Sys2Proof.Machine
end

