-- ==== Sys2Proof/Machine/Display.lean ====
section
/-! DEFINITION. The display instructions (spec/44_display.md). -/

namespace Sys2Proof.Machine

/-- The cell of the pixel in column x and row y (R20). -/
def cellIndex (x y : Nat) : Nat := y * Config.dispW + x

/-- The cells the set bits of one sprite byte fall on, left to right: bit 7 is the leftmost pixel
(D12, log 10), and the column wraps (R131). -/
def rowCells (x0 py : Nat) (b : Byte) : List Nat :=
  ((List.range 8).filter (fun c => b.getLsbD (7 - c))).map
    (fun c => cellIndex ((x0 + c) % Config.dispW) py)

/-- The cells the set bits of the sprite fall on, from row `r` of it on, top to bottom; the display
row wraps (R131). -/
def spriteCells (x0 y0 r : Nat) : List Byte → List Nat
  | [] => []
  | b :: bs => rowCells x0 ((y0 + r) % Config.dispH) b ++ spriteCells x0 y0 (r + 1) bs

/-- A cell toggled between 0x00 and 0xFF (R131). -/
def Memory.toggle (d : Memory) (k : Nat) : Memory := d.write k (d.read k ^^^ Config.pixelOn)

/-- Toggle cells one after the other, noting whether one was on when it was toggled (R131). -/
def blit (cells : List Nat) (d : Memory) (collided : Bool) : Memory × Bool :=
  match cells with
  | [] => (d, collided)
  | k :: ks => blit ks (d.toggle k) (collided || d.read k != Config.pixelOff)

/-- The XOR blit of a sprite with its top left pixel at (vx mod 64, vy mod 32), and VF <- the
collision bit (R131). -/
def State.drawSprite (s : State) (vx vy : Byte) (rows : List Byte) : State :=
  let out := blit (spriteCells (vx.toNat % Config.dispW) (vy.toNat % Config.dispH) 0 rows)
    s.disp false
  (s.setDisp out.1).setReg regVF (flagByte out.2)

/-- `00E0` CLS: all 2048 cells 0x00, which is the empty list (R130; log 1). -/
def execCls (s : State) : Result := .next (s.setDisp [])

/-- `DXYN` DRW Vx, Vy, nibble, or MemoryFault(read) (R131). -/
def execDrw (x y : Reg) (n : Nibble) (s : State) : Result :=
  guardRange .read s.baseAddr n.toNat s
    (s.drawSprite (s.reg x) (s.reg y) (s.loadBytes s.baseAddr n.toNat))

end Sys2Proof.Machine
end

