-- ==== Sys2Proof/Machine/IndexMemory.lean ====
section
/-! DEFINITION. The index register and the memory instructions (spec/43_index_memory.md). -/

namespace Sys2Proof.Machine

/-- `ANNN` LD I, addr (R120). -/
def execLdI (nnn : Addr12) (s : State) : Result := .next (s.setI (zext12 nnn))

/-- `FX1E` ADD I, Vx: wraps at 65536, no flag, no fault (R121). -/
def execAddI (x : Reg) (s : State) : Result := .next (s.setI (s.i + zext8 (s.reg x)))

/-- `FX29` LD F, Vx (R122). -/
def execLdF (x : Reg) (s : State) : Result := .next (s.setI (glyphAddr (s.reg x)))

/-- `FX33` LD B, Vx: three digits to MEM[i0 ..], or MemoryFault(write) (R123). -/
def execLdB (x : Reg) (s : State) : Result :=
  guardRange .write s.baseAddr 3 s (s.storeBytes s.baseAddr (bcdDigits (s.reg x)))

/-- `FX55` LD [I], Vx: V0 to V(X-1) to MEM[i0 ..], or MemoryFault(write); I is not changed
(R124). -/
def execStRegs (x : Reg) (s : State) : Result :=
  guardRange .write s.baseAddr x.val s (s.storeBytes s.baseAddr (s.firstRegs x.val))

/-- `FX65` LD Vx, [I]: V0 to V(X-1) from MEM[i0 ..], or MemoryFault(read); I is not changed
(R125). -/
def execLdRegs (x : Reg) (s : State) : Result :=
  guardRange .read s.baseAddr x.val s (s.setFirstRegs (s.loadBytes s.baseAddr x.val))

end Sys2Proof.Machine
end

