-- ==== Sys2Proof/Machine/KeypadTimers.lean ====
section
/-! DEFINITION. The keypad and timer instructions (spec/45_keypad_timers.md). -/

namespace Sys2Proof.Machine

/-- KEY[vx], none when vx > 15 (R140, R141). -/
def State.keyAt (s : State) (vx : Byte) : Option Bool := s.key[vx.toNat]?

/-- The smallest k with KEY[k] = 1, none when every key is up (R142). -/
def State.lowestKeyDown (s : State) : Option Nat := s.key.toList.findIdx? (fun down => down)

/-- `EX9E` SKP Vx, or KeyIndexFault (R140). -/
def execSkp (x : Reg) (s : State) : Result :=
  match s.keyAt (s.reg x) with
  | some down => .next (s.skipIf down)
  | none => raiseFault (.keyIndexFault (s.reg x)) s

/-- `EXA1` SKNP Vx, or KeyIndexFault (R141). -/
def execSknp (x : Reg) (s : State) : Result :=
  match s.keyAt (s.reg x) with
  | some down => .next (s.skipIf (!down))
  | none => raiseFault (.keyIndexFault (s.reg x)) s

/-- `FX0A` LD Vx, K: while no key is down, PC goes back to this instruction (R142). -/
def execLdVxK (x : Reg) (s : State) : Result :=
  match s.lowestKeyDown with
  | none => .next (s.setPc (s.pc - 2))
  | some k => .next (s.setReg x (BitVec.ofNat 8 k))

/-- `FX07` LD Vx, DT: DT as it is before this cycle's tick (R143). -/
def execLdVxDt (x : Reg) (s : State) : Result := .next (s.setReg x s.dt)

/-- `FX15` LD DT, Vx (R144). -/
def execLdDtVx (x : Reg) (s : State) : Result := .next (s.setDt (s.reg x))

/-- `FX18` LD ST, Vx (R145). -/
def execLdStVx (x : Reg) (s : State) : Result := .next (s.setSt (s.reg x))

end Sys2Proof.Machine
end

