-- ==== Sys2Proof/Machine/Step.lean ====
section
/-! DEFINITION. The one step of the core, CYCLE (spec/40_cycle.md R80). -/

namespace Sys2Proof.Machine

/-- CYCLE (R80): with FAULT set nothing changes; else fetch, advance PC by 2, execute the one
decoded instruction, tick the timers.  RND is read by `CXKK` through `State.rndByte` (log 3). -/
def step (s : State) : Host.Outcome State Fault Refusal :=
  match s.fault with
  | some _ => stayFaulted s
  | none =>
    match fetch s with
    | .error f => takeFault f s
    | .ok op => endCycle (exec (decodeWord op) s.preIncrement)

/-- The state with the opcode `w` (its bits above `nbits` zero) stored at PC, where `step` fetches
its next instruction; it stands for the host's load (log 20). -/
def State.withFetchWord (s : State) (nbits w : Nat) : State :=
  s.storeBytes s.pc.toNat (tableBytes nbits w)

end Sys2Proof.Machine
end

