-- ==== Sys2Proof/Machine/HostOps.lean ====
section
/-! DEFINITION. The host's operations (spec/70_reset_and_hazards.md R180 to R187): what the outside
can do to the machine between CYCLEs, what each answers, and the order the host must keep (R183). -/

namespace Sys2Proof.Machine

/-- `RESET()` (R180).  The random source is outside the core, so its bytes go on (R25; log 3). -/
def hostReset (s : State) : State :=
  { State.reset with rndIn := s.rndIn, rndDrawn := s.rndDrawn }

/-- `LOAD_FONTSET()` with the parameter FONT (R181; log 4). -/
def loadFontset (font : Vector Byte 80) (s : State) : State :=
  s.storeBytes Config.fontBase font.toList

/-- What LOAD_ROM reports (R182). -/
inductive LoadReply where
  | ok
  | warning
  deriving DecidableEq, Repr

/-- `LOAD_ROM(bytes)`: the first 3584 bytes at most, with a Warning when it truncates (R182). -/
def loadRom (bytes : List Byte) (s : State) : State × LoadReply :=
  (s.storeBytes Config.romBase (bytes.take Config.romMax),
    if bytes.length > Config.romMax then .warning else .ok)

/-- `SET_KEYS(k)` (R184). -/
def setKeys (k : Vector Bool 16) (s : State) : State := s.setKey k

/-- `READ_DISPLAY()`: the 2048 bytes of DISP, row-major (R185). -/
def readDisplay (s : State) : List Byte :=
  (List.range (Config.dispW * Config.dispH)).map s.disp.read

/-- What READ_STATUS returns: FAULT and the sound signal SND (R186). -/
structure Status where
  fault : Option Fault
  snd : Bool
  deriving DecidableEq, Repr

/-- `READ_STATUS()`; SND = 1 if ST > 0 (R186; log 22). -/
def readStatus (s : State) : Status := ⟨s.fault, decide (s.st.toNat > 0)⟩

/-- Reading PC (R160): no side effect.  After a faulting CYCLE it is the address of the faulting
instruction (R166).  R160 names no operation for it; that it is one of its own is the model's
choice (log 27). -/
def readPc (s : State) : Word := s.pc

/-- The numeric cause code of a fault (R160). -/
def Fault.code : Fault → Nat
  | .memoryFault _ _ => 1
  | .stackOverflow => 2
  | .stackUnderflow => 3
  | .keyIndexFault _ => 4

/-- What a CYCLE that left the state `after` returned to the host: ok (none), or the fault (R80).
The latch of the state it leaves says it. -/
def cycleReturn (after : State) : Option Fault := after.fault

/-- `CYCLE(RND)` with its input byte supplied: a `CXKK` consumes it, any other instruction leaves it
and it is gone with the CYCLE (R80, R111; log 23). -/
def cycle (rnd : Byte) (s : State) : Result :=
  match step { s with rndIn := [rnd] } with
  | .next t => .next { t with rndIn := s.rndIn }
  | .fault f => .fault f
  | .refused r => .refused r

/-- The transactions of the block's interface (R7, R9; log 21), and the reading of PC (R160;
log 27). -/
inductive HostEvent where
  | reset
  | loadFontset (font : Vector Byte 80)
  | loadRom (bytes : List Byte)
  | setKeys (k : Vector Bool 16)
  | readDisplay
  | readStatus
  | readPc
  | cycle (rnd : Byte)
  deriving DecidableEq, Repr

/-- What a transaction answers. -/
inductive Reply where
  | done
  | loaded (r : LoadReply)
  | display (cells : List Byte)
  | status (st : Status)
  | pc (a : Word)
  | cycled (r : Option Fault)
  deriving DecidableEq, Repr

/-- One transaction: the next state and the reply (R80, R160, R180 to R186). -/
def transact (e : HostEvent) (s : State) : Host.Outcome (State × Reply) Fault Refusal :=
  match e with
  | .reset => .next (hostReset s, .done)
  | .loadFontset font => .next (loadFontset font s, .done)
  | .loadRom bytes => .next ((loadRom bytes s).1, .loaded (loadRom bytes s).2)
  | .setKeys k => .next (setKeys k s, .done)
  | .readDisplay => .next (s, .display (readDisplay s))
  | .readStatus => .next (s, .status (readStatus s))
  | .readPc => .next (s, .pc (readPc s))
  | .cycle rnd =>
    match cycle rnd s with
    | .next t => .next (t, .cycled (cycleReturn t))
    | .fault f => .fault f
    | .refused r => .refused r

/-- Where the host stands in the boot sequence (R183): before any RESET, in the boot window with the
loads done so far, or past the first CYCLE. -/
inductive HostPhase where
  | unreset
  | boot (font rom : Bool)
  | running
  deriving DecidableEq, Repr

/-- What the host may do in a phase, and the phase after it (R183, R187): RESET at any time, each
load once and in the boot window only, CYCLE once both are done.  An assumption about the host
(U9; log 21). -/
def hostMay (p : HostPhase) (e : HostEvent) : Option HostPhase :=
  match p, e with
  | _, .reset => some (.boot false false)
  | .boot false rom, .loadFontset _ => some (.boot true rom)
  | .boot font false, .loadRom _ => some (.boot font true)
  | .boot true true, .cycle _ => some .running
  | .running, .cycle _ => some .running
  | .boot font rom, .setKeys _ => some (.boot font rom)
  | .boot font rom, .readDisplay => some (.boot font rom)
  | .boot font rom, .readStatus => some (.boot font rom)
  | .boot font rom, .readPc => some (.boot font rom)
  | .running, .setKeys _ => some .running
  | .running, .readDisplay => some .running
  | .running, .readStatus => some .running
  | .running, .readPc => some .running
  | _, _ => none

/-- The boot sequence up to the first CYCLE: RESET, LOAD_FONTSET, LOAD_ROM (R183). -/
def boot (font : Vector Byte 80) (bytes : List Byte) (s : State) : State :=
  (loadRom bytes (loadFontset font (hostReset s))).1

end Sys2Proof.Machine
end

