-- ==== Sys2Proof/Safety.lean ====
section
/-! DEFINITION. The terms claims are made in: the invariant of the machine, what a run has finished
or failed means (spec/40_cycle.md R89), and what an instruction leaves unchanged. -/

namespace Sys2Proof.Machine

/-- MEM is in canonical form and lists no address above 4095 (R40; log 1). -/
def memOk (s : State) : Prop := s.mem.wf ∧ s.mem.below 4096

/-- DISP is in canonical form, lists no cell above 2047, and every cell is 0x00 or 0xFF (R20,
R132). -/
def dispOk (s : State) : Prop :=
  s.disp.wf ∧ s.disp.below 2048 ∧ ∀ k, s.disp.read k = 0x00 ∨ s.disp.read k = 0xFF

/-- PC is at most 0x10FE (R16), and every stack entry at most 4096 (R92). -/
def pcOk (s : State) : Prop := s.pc.toNat ≤ 0x10FE ∧ ∀ k : Fin 16, s.stack[k].toNat ≤ 4096

/-- The invariant of the machine. -/
structure State.Inv (s : State) : Prop where
  mem : memOk s
  disp : dispOk s
  pc : pcOk s

/-- A program has finished: PC holds the address of a jump to itself, and FAULT is none (R89). -/
def finished (s : State) : Prop :=
  s.fault = none ∧ ∃ nnn, fetch s = .ok (encode (.jp nnn)) ∧ zext12 nnn = s.pc

/-- A run has failed: FAULT is set (R89). -/
def failed (s : State) : Prop := s.fault ≠ none

/-! ## Frames -/

/-- Every general register but those listed is unchanged. -/
def sameRegsBut (xs : List Reg) (s t : State) : Prop := ∀ r, r ∉ xs → t.reg r = s.reg r

/-- Every byte of MEM outside the `n` bytes from `lo` reads as before. -/
def sameMemBut (lo n : Nat) (s t : State) : Prop :=
  ∀ a, ¬(lo ≤ a ∧ a < lo + n) → t.mem.read a = s.mem.read a

/-- Every byte of MEM reads as before. -/
def sameMem (s t : State) : Prop := ∀ a, t.mem.read a = s.mem.read a

/-- Every cell of DISP reads as before. -/
def sameDisp (s t : State) : Prop := ∀ k, t.disp.read k = s.disp.read k

/-- STACK and SP are unchanged. -/
def sameStack (s t : State) : Prop := t.stack = s.stack ∧ t.sp = s.sp

/-- DT and ST are unchanged. -/
def sameTimers (s t : State) : Prop := t.dt = s.dt ∧ t.st = s.st

/-- KEY and FAULT are unchanged: no instruction that does not fault writes either. -/
def sameInputs (s t : State) : Prop := t.key = s.key ∧ t.fault = s.fault

/-- No byte of RND is consumed. -/
def sameRnd (s t : State) : Prop := t.rndIn = s.rndIn ∧ t.rndDrawn = s.rndDrawn

/-- Nothing but the listed general registers changes. -/
def onlyRegs (xs : List Reg) (s t : State) : Prop :=
  sameRegsBut xs s t ∧ t.i = s.i ∧ t.pc = s.pc ∧ sameStack s t ∧ sameTimers s t ∧ sameMem s t ∧
    sameDisp s t ∧ sameInputs s t ∧ sameRnd s t

/-- Nothing but PC changes. -/
def onlyPc (s t : State) : Prop :=
  sameRegsBut [] s t ∧ t.i = s.i ∧ sameStack s t ∧ sameTimers s t ∧ sameMem s t ∧
    sameDisp s t ∧ sameInputs s t ∧ sameRnd s t

/-- Nothing but PC, STACK and SP changes. -/
def onlyPcStack (s t : State) : Prop :=
  sameRegsBut [] s t ∧ t.i = s.i ∧ sameTimers s t ∧ sameMem s t ∧ sameDisp s t ∧
    sameInputs s t ∧ sameRnd s t

/-- Nothing but I changes. -/
def onlyI (s t : State) : Prop :=
  sameRegsBut [] s t ∧ t.pc = s.pc ∧ sameStack s t ∧ sameTimers s t ∧ sameMem s t ∧
    sameDisp s t ∧ sameInputs s t ∧ sameRnd s t

/-- Nothing but the `n` bytes of MEM from `lo` changes. -/
def onlyMem (lo n : Nat) (s t : State) : Prop :=
  sameRegsBut [] s t ∧ t.i = s.i ∧ t.pc = s.pc ∧ sameStack s t ∧ sameTimers s t ∧
    sameMemBut lo n s t ∧ sameDisp s t ∧ sameInputs s t ∧ sameRnd s t

/-- Nothing but DISP and the listed general registers changes. -/
def onlyDispRegs (xs : List Reg) (s t : State) : Prop :=
  sameRegsBut xs s t ∧ t.i = s.i ∧ t.pc = s.pc ∧ sameStack s t ∧ sameTimers s t ∧ sameMem s t ∧
    sameInputs s t ∧ sameRnd s t

/-! ## What the claims name -/

/-- The opcode whose two bytes stand at PC (R46). -/
def opcodeAt (s : State) : Word :=
  BitVec.ofNat 16 ((s.mem.read s.pc.toNat).toNat * 256 + (s.mem.read (s.pc.toNat + 1)).toNat)

/-- The opcode of the two bytes at address `a` of a memory given as a function (R46). -/
def opcodeOf (m : Nat → Byte) (a : Nat) : Word :=
  BitVec.ofNat 16 ((m a).toNat * 256 + (m (a + 1)).toNat)

/-- MEM as it should read after the `n` bytes `b 0`, `b 1`, … are stored from I upward. -/
def memAfterStore (s : State) (n : Nat) (b : Nat → Byte) (a : Nat) : Byte :=
  if s.baseAddr ≤ a ∧ a < s.baseAddr + n then b (a - s.baseAddr) else s.mem.read a

/-- Digit `k` of the three decimal digits of vx, hundreds first (R123). -/
def decimalDigit (vx : Byte) (k : Nat) : Byte :=
  BitVec.ofNat 8 (if k = 0 then vx.toNat / 100 else if k = 1 then vx.toNat / 10 % 10
    else vx.toNat % 10)

/-- Every opcode that selects the row has the operands `f` names (R61, R65). -/
def decodesAs (mask pat : Word) (f : Word → Instr) : Prop :=
  ∀ w : Word, w &&& mask = pat → decodeWord w = f w

/-- The two bytes at PC are those of `i`, they are in MEM, and no fault is latched: the next CYCLE
executes `i` (R80, R81). -/
def readyToRun (i : Instr) (s : State) : Prop :=
  s.fault = none ∧ s.pc.toNat ≤ 4094 ∧
    [s.mem.read s.pc.toNat, s.mem.read (s.pc.toNat + 1)] = encodeBytes i

/-- The fault the instruction raises in a state, as the table of R160 gives it. -/
def raises (i : Instr) (s : State) (f : Fault) : Prop :=
  match i with
  | .drw _ _ n => 0 < n.toNat ∧ 4095 < s.i.toNat + n.toNat - 1 ∧
      f = .memoryFault .read (max s.i.toNat 4096)
  | .ldB _ => 4093 < s.i.toNat ∧ f = .memoryFault .write (max s.i.toNat 4096)
  | .stRegs x => 0 < x.val ∧ 4095 < s.i.toNat + x.val - 1 ∧
      f = .memoryFault .write (max s.i.toNat 4096)
  | .ldRegs x => 0 < x.val ∧ 4095 < s.i.toNat + x.val - 1 ∧
      f = .memoryFault .read (max s.i.toNat 4096)
  | .call _ => s.sp = 16 ∧ f = .stackOverflow
  | .ret => s.sp = 0 ∧ f = .stackUnderflow
  | .skp x => 15 < (s.reg x).toNat ∧ f = .keyIndexFault (s.reg x)
  | .sknp x => 15 < (s.reg x).toNat ∧ f = .keyIndexFault (s.reg x)
  | _ => False

/-- The condition a skip instruction tests (R94 to R97, R140, R141); none for the others. -/
def skipCondition (i : Instr) (s : State) : Option Bool :=
  match i with
  | .seImm x kk => some (decide ((s.reg x).toNat = kk.toNat))
  | .sneImm x kk => some (decide ((s.reg x).toNat ≠ kk.toNat))
  | .seReg x y => some (decide ((s.reg x).toNat = (s.reg y).toNat))
  | .sneReg x y => some (decide ((s.reg x).toNat ≠ (s.reg y).toNat))
  | .skp x => some (s.key[(s.reg x).toNat]? == some true)
  | .sknp x => some (s.key[(s.reg x).toNat]? == some false)
  | _ => none

/-- Where PC is after a CYCLE that executed `i` from address `a` without a fault, as the table of
R15 gives it. -/
def pcAfter (i : Instr) (s : State) (a : Nat) : Nat :=
  match i with
  | .jp nnn => nnn.toNat
  | .call nnn => nnn.toNat
  | .jpV0 nnn => nnn.toNat + (s.reg 0).toNat
  | .ret => (s.stack[s.sp.val - 1]'(by have := s.sp.isLt; omega)).toNat
  | .ldVxK _ => if s.key.toList.all (fun down => !down) then a else a + 2
  | j => if skipCondition j s = some true then a + 4 else a + 2

/-- The general registers an instruction writes, VF as a flag included (R12, R27). -/
def regsWritten (i : Instr) : List Reg :=
  match i with
  | .ldImm x _ => [x]
  | .addImm x _ => [x]
  | .ldReg x _ => [x]
  | .orReg x _ => [x]
  | .andReg x _ => [x]
  | .xorReg x _ => [x]
  | .addReg x _ => [x, 15]
  | .subReg x _ => [x, 15]
  | .shr x _ => [x, 15]
  | .subnReg x _ => [x, 15]
  | .shl x _ => [x, 15]
  | .rnd x _ => [x]
  | .drw _ _ _ => [15]
  | .ldVxDt x => [x]
  | .ldVxK x => [x]
  | .ldRegs x => (List.finRange 16).filter (fun r => r < x)
  | _ => []

/-- A set bit of the N-row sprite at I falls on the pixel (px, py) when it is drawn at
(vx mod 64, vy mod 32): bit 7 is the leftmost, and each coordinate wraps by itself (R131). -/
def spritePixel (s : State) (vx vy : Byte) (n px py : Nat) : Prop :=
  ∃ r c, r < n ∧ c < 8 ∧ (s.mem.read (s.i.toNat + r)).getLsbD (7 - c) = true ∧
    px = (vx.toNat % 64 + c) % 64 ∧ py = (vy.toNat % 32 + r) % 32

end Sys2Proof.Machine
end

