-- ==== Sys2Proof/Certificates/Slice0/Obligations.lean ====
section
/-! DEFINITION. The statements about the model, for the provers.  Each docstring names the rule of
spec/ it comes from; where it rests on a choice the spec marks as its own, it names the decision
(D<n> of spec/92_eei_decisions.md) and the log entry. -/

open Sys2Proof Sys2Proof.Machine

/-! ## Encoding and decoding -/

/-- Decoding the word of a well-formed instruction gives the instruction back, and so does decoding
its two bytes at the head of any list (30_encoding.md sections 1, 2, 3). -/
def Obligations.DecodeInvertsEncode : Prop :=
  ∀ i : Instr, i.wellFormed = true →
    decodeWord (encode i) = i ∧
    ∀ rest, decode (encodeBytes i ++ rest) = .ok (i, rest)

/-- Every one of the 65536 opcodes decodes to a well-formed instruction whose word it is: no bit of
an opcode is lost (30_encoding.md section 3).  For the words of the NULL space, which are the spec's
own decision D8, that is so because `null` carries its word, the model's choice (log 7). -/
def Obligations.EncodeInvertsDecode : Prop :=
  ∀ w : Word, (decodeWord w).wellFormed = true ∧ encode (decodeWord w) = w

/-- The decoder by class and sub-opcode gives each opcode the instruction of the row of the opcode
map it selects, or NULL when it selects none, and no opcode selects two rows (30_encoding.md
section 3; literal patterns are the spec's own decision D8, log 7). -/
def Obligations.DecoderAgreesWithOpcodeMap : Prop :=
  ∀ w : Word, (decodeWord w).pattern = rowName w ∧
    (opcodeRows.filter (fun r => r.selects w)).length ≤ 1

/-- The opcodes that decode to NULL are exactly the words of the NULL space table (30_encoding.md
section 3; the spec's own decision D8, log 7). -/
def Obligations.NullSpaceIsTheTable : Prop :=
  ∀ w : Word, (decodeWord w).pattern = "NULL" ↔ isNullWord w = true

/-- Nine words written out from the patterns, of formats FIXED, NNN, XY and X and of the NULL space,
decode to what the decode spot checks of 95_test_vectors.md say.  The NULL words rest on the spec's
own decision D8, and that `null` carries its word is the model's choice (log 7). -/
def Obligations.SpotCheckedWordsDecode : Prop :=
  decodeWord 0x00E0 = .cls ∧ decodeWord 0x1FFF = .jp 0xFFF ∧ decodeWord 0x5AB0 = .seReg 10 11 ∧
    decodeWord 0x5AB1 = .null 0x5AB1 ∧ decodeWord 0x8ABE = .shl 10 11 ∧
    decodeWord 0xE3A1 = .sknp 3 ∧ decodeWord 0xE30E = .null 0xE30E ∧
    decodeWord 0xF565 = .ldRegs 5 ∧ decodeWord 0xF575 = .null 0xF575

/-! ## The cycle -/

/-- A CYCLE runs the instruction whose bytes stand at PC: it is `exec` of it on the state with PC
advanced by 2, after which each timer above 0 goes down by 1 if no fault was raised
(40_cycle.md section 1). -/
def Obligations.StepRunsDecodedInstruction : Prop :=
  ∀ (i : Instr) (s : State), i.wellFormed = true → readyToRun i s →
    ∃ u, exec i { s with pc := s.pc + 2 } = .next u ∧
      (u.fault = none → ∃ t, step s = .next t ∧
        t = { u with dt := t.dt, st := t.st } ∧
        t.dt.toNat = u.dt.toNat - 1 ∧ t.st.toNat = u.st.toNat - 1) ∧
      (u.fault ≠ none → step s = .next u)

/-- No step and no meaning stops: every instruction in every state, and every CYCLE, answers a next
state (30_encoding.md R67: no illegal-instruction trap; 60_exceptions.md section 3: a fault is
latched.  That a faulting CYCLE is a next state is the model's choice, log 5). -/
def Obligations.EveryStepAnswersNext : Prop :=
  (∀ (i : Instr) (s : State), ∃ t, exec i s = .next t) ∧ ∀ s : State, ∃ t, step s = .next t

/-- PC after every CYCLE, as the table of 10_state.md section 4 gives it for every instruction.  That a
faulting one leaves PC is the spec's own decision D3 (log 5), that `BNNN` is not reduced its D16
(log 14). -/
def Obligations.PcAfterEveryCycle : Prop :=
  ∀ (i : Instr) (s : State), i.wellFormed = true → readyToRun i s →
    ∃ t, step s = .next t ∧
      (t.fault = none → t.pc.toNat = pcAfter i s s.pc.toNat) ∧
      (t.fault ≠ none → t.pc = s.pc)

/-- NULL: PC is the fetch address + 2, the timers tick, everything else is unchanged, whatever word
of the NULL space stands at PC (40_cycle.md section 3; the NULL space is decision D8, log 7). -/
def Obligations.NullOnlyAdvances : Prop :=
  (∀ (w : Word) (s : State), ∃ t, exec (.null w) s = .next t ∧ t = s) ∧
  ∀ s : State, s.fault = none → s.pc.toNat ≤ 4094 → isNullWord (opcodeAt s) = true →
    ∃ t, step s = .next t ∧ t.pc.toNat = s.pc.toNat + 2 ∧
      t.dt.toNat = s.dt.toNat - 1 ∧ t.st.toNat = s.st.toNat - 1 ∧
      t = { s with pc := t.pc, dt := t.dt, st := t.st }

/-- A program that has finished (PC at a jump to itself, FAULT none) stays so: each further CYCLE
changes nothing but the timers (40_cycle.md section 4; the definition is the spec's own decision
D21, log 26). -/
def Obligations.FinishedProgramStays : Prop :=
  ∀ s : State, finished s → ∃ t, step s = .next t ∧ finished t ∧
    t = { s with dt := t.dt, st := t.st } ∧
    t.dt.toNat = s.dt.toNat - 1 ∧ t.st.toNat = s.st.toNat - 1

/-! ## Faults -/

/-- Faults are precise: a CYCLE that ends with a fault it did not begin with has changed nothing but
the FAULT latch (60_exceptions.md section 3; the spec's own decision D3, log 5). -/
def Obligations.FaultsArePrecise : Prop :=
  ∀ (s t : State) (f : Fault), s.fault = none → step s = .next t → t.fault = some f →
    t = { s with fault := some f }

/-- Exactly when a CYCLE raises a fault, and which: the fetch's when PC > 4094, otherwise the one the
table of R160 gives the executed instruction (60_exceptions.md section 1; the spec's own decisions
D1, D2, D4, D5, log 15, 16, 17). -/
def Obligations.FaultsExactlyWhenTheTableSays : Prop :=
  ∀ (s t : State) (f : Fault), s.fault = none → step s = .next t →
    (t.fault = some f ↔
      (4094 < s.pc.toNat ∧ f = .memoryFault .fetch (max s.pc.toNat 4096)) ∨
      (s.pc.toNat ≤ 4094 ∧ raises (decodeWord (opcodeAt s)) s f))

/-- FAULT is sticky: while it is set every host operation but RESET leaves it, every CYCLE changes
nothing and returns that same fault, and RESET clears it (60_exceptions.md section 3, 10_state.md
section 10; the spec's own decision D3, log 5). -/
def Obligations.OnlyResetClearsFault : Prop :=
  (∀ (e : HostEvent) (s t : State) (r : Reply) (f : Fault), s.fault = some f →
    transact e s = .next (t, r) → e ≠ .reset →
    t.fault = some f ∧ ∀ b, e = .cycle b → t = s ∧ r = .cycled (some f)) ∧
  ∀ s : State, ∃ t r, transact .reset s = .next (t, r) ∧ t.fault = none

/-! ## Invariants and whole-machine rules -/

/-- The invariant holds at reset.  Its canonical form is the model's choice (log 1); that DISP and STACK
are zero at reset is the spec's own decision D10 (log 2). -/
def Obligations.InvariantAtReset : Prop := State.reset.Inv

/-- Every step keeps the invariant: MEM and DISP in canonical form and in range, every display cell
0x00 or 0xFF, PC at most 0x10FE, every stack entry at most 4096 (20_memory.md section 1,
44_display.md section on the display invariant, 10_state.md section 4; the canonical form is the
model's choice, log 1; the bound on PC rests on decision D16, log 14). -/
def Obligations.StepKeepsInvariant : Prop :=
  ∀ s t : State, s.Inv → step s = .next t → t.Inv

/-- Every transaction of the host keeps the invariant too (70_reset_and_hazards.md section 1).  The
canonical form is the model's choice (log 1), the bound on PC rests on the spec's own decision D16
(log 14), which transactions there are on its D18 (log 21), and reading PC is a transaction by the
model's choice (log 27). -/
def Obligations.TransactionsKeepInvariant : Prop :=
  ∀ (e : HostEvent) (s t : State) (r : Reply), s.Inv → transact e s = .next (t, r) → t.Inv

/-- Who writes what, for every instruction that raises no fault: the columns V, I, STACK, SP, DT,
ST, MEM, DISP, KEY and RND of the access matrix of 10_state.md section 12.  (Fields for RND are the
model's choice, log 3.) -/
def Obligations.InstructionsWriteOnlyTheirColumns : Prop :=
  ∀ (i : Instr) (s t : State), exec i s = .next t → t.fault = s.fault →
    sameRegsBut (regsWritten i) s t ∧
    (t.i ≠ s.i → (∃ a, i = .ldI a) ∨ (∃ x, i = .addI x) ∨ ∃ x, i = .ldF x) ∧
    (¬sameStack s t → i = .ret ∨ ∃ a, i = .call a) ∧
    (t.dt ≠ s.dt → ∃ x, i = .ldDtVx x) ∧
    (t.st ≠ s.st → ∃ x, i = .ldStVx x) ∧
    (¬sameMem s t → (∃ x, i = .ldB x) ∨ ∃ x, i = .stRegs x) ∧
    (¬sameDisp s t → i = .cls ∨ ∃ x y n, i = .drw x y n) ∧
    t.key = s.key ∧
    (¬sameRnd s t → ∃ x kk, i = .rnd x kk)

/-- The keypad is read by `EX9E`, `EXA1` and `FX0A` only: every other instruction does the same
whatever keys are down (10_state.md section 7, 20_memory.md section 1; decision D24, log 13). -/
def Obligations.OnlyKeyInstructionsReadKeys : Prop :=
  ∀ (i : Instr) (s : State) (k : Vector Bool 16),
    (∀ x, i ≠ .skp x ∧ i ≠ .sknp x ∧ i ≠ .ldVxK x) →
    ∃ t, exec i s = .next t ∧ exec i { s with key := k } = .next { t with key := k }

/-- The random byte is read by `CXKK` only: every other instruction does the same whatever bytes the
random source holds, and consumes none (42_alu.md section on `CXKK`; RND as a field is the model's
choice, log 3). -/
def Obligations.OnlyRndReadsRandomBytes : Prop :=
  ∀ (i : Instr) (s : State) (l : List Byte) (n : Nat), (∀ x kk, i ≠ .rnd x kk) →
    ∃ t, exec i s = .next t ∧
      exec i { s with rndIn := l, rndDrawn := n } = .next { t with rndIn := l, rndDrawn := n }

/-- No instruction reads ST: with another sound timer every instruction does the same, and only `FX18`
writes it (45_keypad_timers.md, `FX18`). -/
def Obligations.NoInstructionReadsSoundTimer : Prop :=
  ∀ (i : Instr) (s : State) (b : Byte), ∃ t u,
    exec i s = .next t ∧ exec i { s with st := b } = .next u ∧ u = { t with st := u.st } ∧
      ((∀ x, i ≠ .ldStVx x) → u.st = b ∧ t.st = s.st) ∧ ∀ x, i = .ldStVx x → u.st = t.st

/-- A store is seen by the very next fetch: after `FX33` or `FX55` a fetch at any address at most 4094
finds each of its two bytes as stored, where the instruction stored it, and as before elsewhere
(20_memory.md section 9, marked as derived there; the exclusive bound of `FX55` and I unchanged are
the spec's own decision D6, log 19). -/
def Obligations.StoresAreSeenByFetch : Prop :=
  (∀ (x : Reg) (s : State), s.i.toNat ≤ 4093 → ∃ t, exec (.ldB x) s = .next t ∧
    ∀ a : Word, a.toNat ≤ 4094 → fetch { t with pc := a } =
      .ok (opcodeOf (memAfterStore s 3 (decimalDigit (s.reg x))) a.toNat)) ∧
  ∀ (x : Reg) (s : State), x = 0 ∨ s.i.toNat + x.val ≤ 4096 → ∃ t, exec (.stRegs x) s = .next t ∧
    ∀ a : Word, a.toNat ≤ 4094 → fetch { t with pc := a } =
      .ok (opcodeOf (memAfterStore s x.val (fun k => s.reg (Fin.ofNat 16 k))) a.toNat)

/-! ## Control transfer -/

/-- `00EE`: pop the return address, or StackUnderflow when SP = 0 (41_control_flow.md, `00EE`; that the
fault changes nothing but the latch is the spec's own decision D1 with D3, log 5, 16). -/
def Obligations.ReturnPopsTheStack : Prop :=
  decodeWord 0x00EE = .ret ∧
  (∀ s : State, s.sp ≠ 0 → ∃ t, exec .ret s = .next t ∧ onlyPcStack s t ∧
    t.sp.val = s.sp.val - 1 ∧ t.stack = s.stack ∧ s.stack[s.sp.val - 1]? = some t.pc) ∧
  ∀ s : State, s.sp = 0 →
    exec .ret { s with pc := s.pc + 2 } = .next { s with fault := some .stackUnderflow }

/-- `1NNN` (R91). -/
def Obligations.JumpSetsPc : Prop :=
  decodesAs 0xF000 0x1000 (fun w => .jp (fieldNNN w)) ∧
  ∀ (nnn : Addr12) (s : State), ∃ t, exec (.jp nnn) s = .next t ∧ onlyPc s t ∧
    t.pc.toNat = nnn.toNat

/-- `2NNN`: push PC, which on entry is the address after the call, or StackOverflow when SP = 16
(41_control_flow.md, `2NNN`; that the fault changes nothing but the latch is the spec's own decision
D1 with D3, log 5, 16). -/
def Obligations.CallPushesTheReturnAddress : Prop :=
  decodesAs 0xF000 0x2000 (fun w => .call (fieldNNN w)) ∧
  (∀ (nnn : Addr12) (s : State), s.sp.val < 16 →
    ∃ t, exec (.call nnn) s = .next t ∧ onlyPcStack s t ∧ t.pc.toNat = nnn.toNat ∧
      t.sp.val = s.sp.val + 1 ∧
      ∀ k : Fin 16, t.stack[k] = if k.val = s.sp.val then s.pc else s.stack[k]) ∧
  ∀ (nnn : Addr12) (s : State), s.sp = 16 →
    exec (.call nnn) { s with pc := s.pc + 2 } = .next { s with fault := some .stackOverflow }

/-- A call and the return at its target bring PC to the instruction after the call and SP back to
where it was (41_control_flow.md, the round trip quoted for `2NNN`). -/
def Obligations.CallThenReturnRoundTrip : Prop :=
  ∀ (nnn : Addr12) (s : State), readyToRun (.call nnn) s → s.sp.val < 16 →
    nnn.toNat ≤ 4094 → s.mem.read nnn.toNat = 0x00 → s.mem.read (nnn.toNat + 1) = 0xEE →
    ∃ t u, step s = .next t ∧ step t = .next u ∧ t.pc.toNat = nnn.toNat ∧
      u.fault = none ∧ u.pc.toNat = s.pc.toNat + 2 ∧ u.sp = s.sp

/-- `BNNN`: V0 whatever the X field holds, no reduction modulo 4096 (41_control_flow.md, `BNNN`; the
spec's own decision D16, log 14). -/
def Obligations.JumpV0AddsV0 : Prop :=
  decodesAs 0xF000 0xB000 (fun w => .jpV0 (fieldNNN w)) ∧
  ∀ (nnn : Addr12) (s : State), ∃ t, exec (.jpV0 nnn) s = .next t ∧ onlyPc s t ∧
    t.pc.toNat = nnn.toNat + (s.reg 0).toNat

/-- `3XKK` and `4XKK` (R94, R95): PC on entry is the fetch address + 2. -/
def Obligations.SkipsOnImmediate : Prop :=
  decodesAs 0xF000 0x3000 (fun w => .seImm (fieldX w) (fieldKK w)) ∧
  decodesAs 0xF000 0x4000 (fun w => .sneImm (fieldX w) (fieldKK w)) ∧
  ∀ (x : Reg) (kk : Byte) (s : State),
    (∃ t, exec (.seImm x kk) s = .next t ∧ onlyPc s t ∧
      t.pc = if (s.reg x).toNat = kk.toNat then s.pc + 2 else s.pc) ∧
    ∃ t, exec (.sneImm x kk) s = .next t ∧ onlyPc s t ∧
      t.pc = if (s.reg x).toNat = kk.toNat then s.pc else s.pc + 2

/-- `5XY0` and `9XY0` (41_control_flow.md, `5XY0`, `9XY0`). -/
def Obligations.SkipsOnRegisters : Prop :=
  decodesAs 0xF00F 0x5000 (fun w => .seReg (fieldX w) (fieldY w)) ∧
  decodesAs 0xF00F 0x9000 (fun w => .sneReg (fieldX w) (fieldY w)) ∧
  ∀ (x y : Reg) (s : State),
    (∃ t, exec (.seReg x y) s = .next t ∧ onlyPc s t ∧
      t.pc = if (s.reg x).toNat = (s.reg y).toNat then s.pc + 2 else s.pc) ∧
    ∃ t, exec (.sneReg x y) s = .next t ∧ onlyPc s t ∧
      t.pc = if (s.reg x).toNat = (s.reg y).toNat then s.pc else s.pc + 2

/-! ## Load, arithmetic, logic, shift, random -/

/-- `6XKK` and `7XKK` (R100, R101): the add wraps and writes no flag. -/
def Obligations.LoadAndAddImmediate : Prop :=
  decodesAs 0xF000 0x6000 (fun w => .ldImm (fieldX w) (fieldKK w)) ∧
  decodesAs 0xF000 0x7000 (fun w => .addImm (fieldX w) (fieldKK w)) ∧
  ∀ (x : Reg) (kk : Byte) (s : State),
    (∃ t, exec (.ldImm x kk) s = .next t ∧ onlyRegs [x] s t ∧ t.reg x = kk) ∧
    ∃ t, exec (.addImm x kk) s = .next t ∧ onlyRegs [x] s t ∧
      (t.reg x).toNat = ((s.reg x).toNat + kk.toNat) % 256

/-- `8XY0` (R102). -/
def Obligations.CopyRegister : Prop :=
  decodesAs 0xF00F 0x8000 (fun w => .ldReg (fieldX w) (fieldY w)) ∧
  ∀ (x y : Reg) (s : State),
    ∃ t, exec (.ldReg x y) s = .next t ∧ onlyRegs [x] s t ∧ t.reg x = s.reg y

/-- `8XY1`, `8XY2`, `8XY3` (R103, R104, R105): bit by bit, and VF is not a destination unless X is
15. -/
def Obligations.LogicKeepsVF : Prop :=
  decodesAs 0xF00F 0x8001 (fun w => .orReg (fieldX w) (fieldY w)) ∧
  decodesAs 0xF00F 0x8002 (fun w => .andReg (fieldX w) (fieldY w)) ∧
  decodesAs 0xF00F 0x8003 (fun w => .xorReg (fieldX w) (fieldY w)) ∧
  ∀ (x y : Reg) (s : State),
    (∃ t, exec (.orReg x y) s = .next t ∧ onlyRegs [x] s t ∧
      ∀ k, (t.reg x).getLsbD k = ((s.reg x).getLsbD k || (s.reg y).getLsbD k)) ∧
    (∃ t, exec (.andReg x y) s = .next t ∧ onlyRegs [x] s t ∧
      ∀ k, (t.reg x).getLsbD k = ((s.reg x).getLsbD k && (s.reg y).getLsbD k)) ∧
    ∃ t, exec (.xorReg x y) s = .next t ∧ onlyRegs [x] s t ∧
      ∀ k, (t.reg x).getLsbD k = ((s.reg x).getLsbD k ^^ (s.reg y).getLsbD k)

/-- `8XY4` (R106): VX first, then VF, so with X = 15 the carry stays. -/
def Obligations.AddSetsCarry : Prop :=
  decodesAs 0xF00F 0x8004 (fun w => .addReg (fieldX w) (fieldY w)) ∧
  ∀ (x y : Reg) (s : State), ∃ t, exec (.addReg x y) s = .next t ∧ onlyRegs [x, 15] s t ∧
    (x ≠ 15 → (t.reg x).toNat = ((s.reg x).toNat + (s.reg y).toNat) % 256) ∧
    (t.reg 15).toNat = if (s.reg x).toNat + (s.reg y).toNat > 255 then 1 else 0

/-- `8XY5` and `8XY7`: VF first, then VX, so with X = 15 the difference stays; the comparison is strict
(42_alu.md, `8XY5`, `8XY7`).  That both operands are sampled before VF is written is the spec's own
decision D7 (log 8). -/
def Obligations.SubtractSetsStrictGreater : Prop :=
  decodesAs 0xF00F 0x8005 (fun w => .subReg (fieldX w) (fieldY w)) ∧
  decodesAs 0xF00F 0x8007 (fun w => .subnReg (fieldX w) (fieldY w)) ∧
  ∀ (x y : Reg) (s : State),
    (∃ t, exec (.subReg x y) s = .next t ∧ onlyRegs [x, 15] s t ∧
      (t.reg x).toNat = ((s.reg x).toNat + 256 - (s.reg y).toNat) % 256 ∧
      (x ≠ 15 → (t.reg 15).toNat = if (s.reg x).toNat > (s.reg y).toNat then 1 else 0)) ∧
    ∃ t, exec (.subnReg x y) s = .next t ∧ onlyRegs [x, 15] s t ∧
      (t.reg x).toNat = ((s.reg y).toNat + 256 - (s.reg x).toNat) % 256 ∧
      (x ≠ 15 → (t.reg 15).toNat = if (s.reg y).toNat > (s.reg x).toNat then 1 else 0)

/-- `8XY6` and `8XYE`: VX is shifted by one, VY ignored; VF first, then VX (42_alu.md, `8XY6`, `8XYE`).
That VX is sampled before VF is written is the spec's own decision D7 (log 8). -/
def Obligations.ShiftsMoveOneBitOut : Prop :=
  decodesAs 0xF00F 0x8006 (fun w => .shr (fieldX w) (fieldY w)) ∧
  decodesAs 0xF00F 0x800E (fun w => .shl (fieldX w) (fieldY w)) ∧
  ∀ (x y : Reg) (s : State),
    (∃ t, exec (.shr x y) s = .next t ∧ onlyRegs [x, 15] s t ∧
      (t.reg x).toNat = (s.reg x).toNat / 2 ∧
      (x ≠ 15 → (t.reg 15).toNat = (s.reg x).toNat % 2)) ∧
    ∃ t, exec (.shl x y) s = .next t ∧ onlyRegs [x, 15] s t ∧
      (t.reg x).toNat = (s.reg x).toNat * 2 % 256 ∧
      (x ≠ 15 → (t.reg 15).toNat = (s.reg x).toNat / 128)

/-- `CXKK`: VX is the random byte masked by KK, whatever the byte is, and one byte is consumed
(42_alu.md, `CXKK`; RND as a free input is the spec's own decision D17; the fields that carry it are
the model's, log 3). -/
def Obligations.RandomByteIsMasked : Prop :=
  decodesAs 0xF000 0xC000 (fun w => .rnd (fieldX w) (fieldKK w)) ∧
  (∀ (x : Reg) (kk b : Byte) (bs : List Byte) (s : State), s.rndIn = b :: bs →
    ∃ t, exec (.rnd x kk) s = .next t ∧ onlyRegs [x] { s with rndIn := bs } t ∧
      t.reg x = b &&& kk) ∧
  (∀ (x : Reg) (kk : Byte) (s : State), s.rndIn = [] →
    ∃ t, exec (.rnd x kk) s = .next t ∧
      onlyRegs [x] { s with rndDrawn := s.rndDrawn + 1 } t ∧
      t.reg x = Config.rnd s.rndDrawn &&& kk) ∧
  ∀ (x : Reg) (kk b : Byte) (s : State), readyToRun (.rnd x kk) s →
    ∃ t, cycle b s = .next t ∧ t.reg x = b &&& kk

/-! ## Index register and memory -/

/-- `ANNN` (R120). -/
def Obligations.LoadIndex : Prop :=
  decodesAs 0xF000 0xA000 (fun w => .ldI (fieldNNN w)) ∧
  ∀ (nnn : Addr12) (s : State), ∃ t, exec (.ldI nnn) s = .next t ∧ onlyI s t ∧
    t.i.toNat = nnn.toNat

/-- `FX1E` and `FX29`: 16-bit wrap with no flag and no fault, and the glyph formula on the whole
8-bit VX (43_index_memory.md, `FX1E`, `FX29`; the spec's own decisions D14 and D15, log 9, 19). -/
def Obligations.IndexArithmetic : Prop :=
  decodesAs 0xF0FF 0xF01E (fun w => .addI (fieldX w)) ∧
  decodesAs 0xF0FF 0xF029 (fun w => .ldF (fieldX w)) ∧
  ∀ (x : Reg) (s : State),
    (∃ t, exec (.addI x) s = .next t ∧ onlyI s t ∧
      t.i.toNat = (s.i.toNat + (s.reg x).toNat) % 65536) ∧
    ∃ t, exec (.ldF x) s = .next t ∧ onlyI s t ∧ t.i.toNat = 0x050 + 5 * (s.reg x).toNat

/-- `FX33`: three digits, and a faulting store writes none (43_index_memory.md, `FX33`; the fault and
its precision are the spec's own decisions D2 and D3, log 5, 15). -/
def Obligations.StoreDecimalDigits : Prop :=
  decodesAs 0xF0FF 0xF033 (fun w => .ldB (fieldX w)) ∧
  (∀ (x : Reg) (s : State), s.i.toNat ≤ 4093 →
    ∃ t, exec (.ldB x) s = .next t ∧ onlyMem s.baseAddr 3 s t ∧
      (t.mem.read s.baseAddr).toNat = (s.reg x).toNat / 100 ∧
      (t.mem.read (s.baseAddr + 1)).toNat = (s.reg x).toNat / 10 % 10 ∧
      (t.mem.read (s.baseAddr + 2)).toNat = (s.reg x).toNat % 10) ∧
  ∀ (x : Reg) (s : State), 4093 < s.i.toNat →
    exec (.ldB x) { s with pc := s.pc + 2 } =
      .next { s with fault := some (.memoryFault .write (max s.i.toNat 4096)) }

/-- `FX55`: X bytes, V0 to V(X-1), VX excluded; a faulting store writes none; X = 0 never faults
(43_index_memory.md, `FX55`; I unchanged is the spec's own decision D6, log 19). -/
def Obligations.StoreRegistersBelowX : Prop :=
  decodesAs 0xF0FF 0xF055 (fun w => .stRegs (fieldX w)) ∧
  (∀ (x : Reg) (s : State), x = 0 ∨ s.i.toNat + x.val ≤ 4096 →
    ∃ t, exec (.stRegs x) s = .next t ∧ onlyMem s.baseAddr x.val s t ∧
      ∀ k : Reg, k < x → t.mem.read (s.baseAddr + k.val) = s.reg k) ∧
  ∀ (x : Reg) (s : State), x ≠ 0 → 4096 < s.i.toNat + x.val →
    exec (.stRegs x) { s with pc := s.pc + 2 } =
      .next { s with fault := some (.memoryFault .write (max s.i.toNat 4096)) }

/-- `FX65`: X bytes to V0 to V(X-1), VX and above unchanged; a faulting load changes none
(43_index_memory.md, `FX65`; the spec's own decision D6, log 19). -/
def Obligations.LoadRegistersBelowX : Prop :=
  decodesAs 0xF0FF 0xF065 (fun w => .ldRegs (fieldX w)) ∧
  (∀ (x : Reg) (s : State), x = 0 ∨ s.i.toNat + x.val ≤ 4096 →
    ∃ t, exec (.ldRegs x) s = .next t ∧
      onlyRegs ((List.finRange 16).filter (fun r => r < x)) s t ∧
      ∀ k : Reg, k < x → t.reg k = s.mem.read (s.baseAddr + k.val)) ∧
  ∀ (x : Reg) (s : State), x ≠ 0 → 4096 < s.i.toNat + x.val →
    exec (.ldRegs x) { s with pc := s.pc + 2 } =
      .next { s with fault := some (.memoryFault .read (max s.i.toNat 4096)) }

/-! ## Display -/

/-- `00E0` (R130): every cell off, VF untouched, and a clear display is left as it is. -/
def Obligations.ClearTurnsEveryCellOff : Prop :=
  decodeWord 0x00E0 = .cls ∧
  ∀ s : State, ∃ t, exec .cls s = .next t ∧ onlyDispRegs [] s t ∧
    (∀ k, k < 2048 → t.disp.read k = 0x00) ∧
    ((∀ k, s.disp.read k = 0x00) → sameDisp s t)

/-- `DXYN`: exactly the pixels the sprite's set bits fall on are toggled, VF says whether one of them
was on, and a faulting draw changes nothing (44_display.md, `DXYN`; the bit order is the spec's own
decision D12, log 10, the other readings D19, log 11). -/
def Obligations.DrawTogglesTheSpritePixels : Prop :=
  decodesAs 0xF000 0xD000 (fun w => .drw (fieldX w) (fieldY w) (fieldN w)) ∧
  (∀ (x y : Reg) (n : Nibble) (s : State), n = 0 ∨ s.i.toNat + n.toNat ≤ 4096 →
    ∃ t, exec (.drw x y n) s = .next t ∧ onlyDispRegs [15] s t ∧
      (∀ px py, px < 64 → py < 32 →
        (spritePixel s (s.reg x) (s.reg y) n.toNat px py →
          t.disp.read (py * 64 + px) = s.disp.read (py * 64 + px) ^^^ 0xFF) ∧
        (¬spritePixel s (s.reg x) (s.reg y) n.toNat px py →
          t.disp.read (py * 64 + px) = s.disp.read (py * 64 + px))) ∧
      (∀ k, 2048 ≤ k → t.disp.read k = s.disp.read k) ∧
      ((∃ px py, spritePixel s (s.reg x) (s.reg y) n.toNat px py ∧
          s.disp.read (py * 64 + px) ≠ 0x00) → t.reg 15 = 1) ∧
      ((∀ px py, spritePixel s (s.reg x) (s.reg y) n.toNat px py →
          s.disp.read (py * 64 + px) = 0x00) → t.reg 15 = 0)) ∧
  ∀ (x y : Reg) (n : Nibble) (s : State), n ≠ 0 → 4096 < s.i.toNat + n.toNat →
    exec (.drw x y n) { s with pc := s.pc + 2 } =
      .next { s with fault := some (.memoryFault .read (max s.i.toNat 4096)) }

/-- Drawing the same sprite twice at the same place (which X = 15 or Y = 15 gives too, when the first
draw leaves VF as it was) restores the display; the first draw reports no collision if every sprite
pixel was off, the second reports one if some sprite pixel was off (44_display.md, the double draw
quoted for `DXYN`; that some pixel must have been off is the pseudocode's reading, log 11). -/
def Obligations.DrawingTwiceRestoresTheDisplay : Prop :=
  ∀ (x y : Reg) (n : Nibble) (s : State), n = 0 ∨ s.i.toNat + n.toNat ≤ 4096 →
    ∃ t u, exec (.drw x y n) s = .next t ∧ exec (.drw x y n) t = .next u ∧
      (t.reg x = s.reg x → t.reg y = s.reg y →
        sameDisp s u ∧
        ((∀ px py, spritePixel s (s.reg x) (s.reg y) n.toNat px py →
          s.disp.read (py * 64 + px) = 0x00) → t.reg 15 = 0) ∧
        ((∃ px py, spritePixel s (s.reg x) (s.reg y) n.toNat px py ∧
          s.disp.read (py * 64 + px) = 0x00) → u.reg 15 = 1))

/-! ## Keypad and timers -/

/-- `EX9E` and `EXA1`: the key whose number is the value of VX, and KeyIndexFault above 15
(45_keypad_timers.md, `EX9E`, `EXA1`; the spec's own decision D5, log 17). -/
def Obligations.KeySkipsTestTheKeyNumberedByVx : Prop :=
  decodesAs 0xF0FF 0xE09E (fun w => .skp (fieldX w)) ∧
  decodesAs 0xF0FF 0xE0A1 (fun w => .sknp (fieldX w)) ∧
  (∀ (x : Reg) (k : Fin 16) (s : State), (s.reg x).toNat = k.val →
    (∃ t, exec (.skp x) s = .next t ∧ onlyPc s t ∧
      t.pc = if s.key[k] = true then s.pc + 2 else s.pc) ∧
    ∃ t, exec (.sknp x) s = .next t ∧ onlyPc s t ∧
      t.pc = if s.key[k] = true then s.pc else s.pc + 2) ∧
  ∀ (x : Reg) (s : State), 15 < (s.reg x).toNat →
    exec (.skp x) { s with pc := s.pc + 2 } =
      .next { s with fault := some (.keyIndexFault (s.reg x)) } ∧
    exec (.sknp x) { s with pc := s.pc + 2 } =
      .next { s with fault := some (.keyIndexFault (s.reg x)) }

/-- `FX0A` (R142): while no key is down PC goes back by 2 and nothing else changes (the cycle leaves
PC where it was and ticks the timers); else VX is the lowest key that is down. -/
def Obligations.KeyWaitPolls : Prop :=
  decodesAs 0xF0FF 0xF00A (fun w => .ldVxK (fieldX w)) ∧
  (∀ (x : Reg) (s : State), (∀ k : Fin 16, s.key[k] = false) →
    ∃ t, exec (.ldVxK x) s = .next t ∧ onlyPc s t ∧ t.pc = s.pc - 2) ∧
  (∀ (x : Reg) (k : Fin 16) (s : State), s.key[k] = true →
    (∀ j : Fin 16, j < k → s.key[j] = false) →
    ∃ t, exec (.ldVxK x) s = .next t ∧ onlyRegs [x] s t ∧ (t.reg x).toNat = k.val) ∧
  ∀ (x : Reg) (s : State), readyToRun (.ldVxK x) s → (∀ k : Fin 16, s.key[k] = false) →
    ∃ t, step s = .next t ∧ t.dt.toNat = s.dt.toNat - 1 ∧ t.st.toNat = s.st.toNat - 1 ∧
      t = { s with dt := t.dt, st := t.st }

/-- `FX07` (R143): DT before the tick of its own cycle. -/
def Obligations.ReadDelayTimer : Prop :=
  decodesAs 0xF0FF 0xF007 (fun w => .ldVxDt (fieldX w)) ∧
  (∀ (x : Reg) (s : State), ∃ t, exec (.ldVxDt x) s = .next t ∧ onlyRegs [x] s t ∧
    t.reg x = s.dt) ∧
  ∀ (x : Reg) (s : State), readyToRun (.ldVxDt x) s →
    ∃ t, step s = .next t ∧ t.reg x = s.dt ∧ t.dt.toNat = s.dt.toNat - 1

/-- `FX15` (R144) and `FX18` (R145): the whole byte is copied, and the tick of the same cycle
follows. -/
def Obligations.SetTimers : Prop :=
  decodesAs 0xF0FF 0xF015 (fun w => .ldDtVx (fieldX w)) ∧
  decodesAs 0xF0FF 0xF018 (fun w => .ldStVx (fieldX w)) ∧
  (∀ (x : Reg) (s : State),
    (∃ t, exec (.ldDtVx x) s = .next t ∧ t.dt = s.reg x ∧ t.st = s.st ∧
      onlyPc s { t with dt := s.dt } ∧ t.pc = s.pc) ∧
    ∃ t, exec (.ldStVx x) s = .next t ∧ t.st = s.reg x ∧ t.dt = s.dt ∧
      onlyPc s { t with st := s.st } ∧ t.pc = s.pc) ∧
  (∀ (x : Reg) (s : State), readyToRun (.ldDtVx x) s →
    ∃ t, step s = .next t ∧ t.dt.toNat = (s.reg x).toNat - 1) ∧
  ∀ (x : Reg) (s : State), readyToRun (.ldStVx x) s →
    ∃ t, step s = .next t ∧ t.st.toNat = (s.reg x).toNat - 1

/-! ## Reset and the host's operations -/

/-- RESET from any state: every element at the value R30 gives it (10_state.md section 13; all but
MEM and PC are the spec's own decision D10, log 2). -/
def Obligations.ResetValues : Prop :=
  ∀ s : State, ∃ t, transact .reset s = .next (t, .done) ∧
    (∀ r : Reg, t.reg r = 0) ∧ t.i = 0 ∧ t.pc.toNat = 0x200 ∧ (∀ k : Fin 16, t.stack[k] = 0) ∧
    t.sp = 0 ∧ t.dt = 0 ∧ t.st = 0 ∧ (∀ a, t.mem.read a = 0) ∧ (∀ k, t.disp.read k = 0x00) ∧
    (∀ k : Fin 16, t.key[k] = false) ∧ t.fault = none

/-- LOAD_ROM (R182): the first 3584 bytes verbatim from 0x200, nothing else changed, a Warning
exactly when it truncates. -/
def Obligations.LoadRomTruncatesWithWarning : Prop :=
  ∀ (bytes : List Byte) (s : State), ∃ t,
    transact (.loadRom bytes) s =
      .next (t, .loaded (if 3584 < bytes.length then .warning else .ok)) ∧
    t = { s with mem := t.mem } ∧
    (∀ k, k < min bytes.length 3584 → bytes[k]? = some (t.mem.read (0x200 + k))) ∧
    ∀ a, a < 0x200 ∨ 0x200 + min bytes.length 3584 ≤ a → t.mem.read a = s.mem.read a

/-- The state after the boot sequence: the reset state with FONT at 0x050 and the ROM at 0x200, and
0x00 in the rest of memory (70_reset_and_hazards.md section 2, 20_memory.md section 3; FONT is a
parameter, decision D11, log 4). -/
def Obligations.BootedMemoryMap : Prop :=
  ∀ (font : Vector Byte 80) (bytes : List Byte) (s : State), bytes.length ≤ 3584 →
    (∀ k : Fin 80, (boot font bytes s).mem.read (0x050 + k.val) = font[k]) ∧
    (∀ k, k < bytes.length → bytes[k]? = some ((boot font bytes s).mem.read (0x200 + k))) ∧
    (∀ a, a < 0x050 ∨ (0x0A0 ≤ a ∧ a < 0x200) ∨ 0x200 + bytes.length ≤ a →
      (boot font bytes s).mem.read a = 0) ∧
    (boot font bytes s) = { hostReset s with mem := (boot font bytes s).mem }

/-- READ_DISPLAY returns 2048 bytes, that of the pixel (x, y) at y * 64 + x, each 0x00 or 0xFF, and
changes nothing (70_reset_and_hazards.md, READ_DISPLAY), when the display invariant holds. -/
def Obligations.ReadDisplayIsRowMajor : Prop :=
  ∀ s : State, dispOk s → ∃ cells,
    transact .readDisplay s = .next (s, .display cells) ∧ cells.length = 2048 ∧
    (∀ x y, x < 64 → y < 32 → cells[y * 64 + x]? = some (s.disp.read (y * 64 + x))) ∧
    ∀ b, b ∈ cells → b = 0x00 ∨ b = 0xFF

/-- READ_STATUS returns FAULT and the sound signal and changes nothing; after `FX18` the host sees the
signal exactly when VX is above 1 (70_reset_and_hazards.md, READ_STATUS; 45_keypad_timers.md, `FX18`;
SND is the spec's own decision D27, log 22). -/
def Obligations.ReadStatusReportsFaultAndSound : Prop :=
  (∀ s : State, ∃ st, transact .readStatus s = .next (s, .status st) ∧ st.fault = s.fault ∧
    (st.snd = true ↔ 0 < s.st.toNat)) ∧
  ∀ (x : Reg) (s : State), readyToRun (.ldStVx x) s →
    ∃ t, step s = .next t ∧ ((readStatus t).snd = true ↔ 1 < (s.reg x).toNat)

/-- SET_KEYS sets every key as given and changes nothing else, and every other transaction but RESET
leaves KEY as it is, CYCLE included (70_reset_and_hazards.md, SET_KEYS; 10_state.md section 7; that
KEY persists is the spec's own decision D24, log 13). -/
def Obligations.OnlySetKeysWritesKeys : Prop :=
  (∀ (k : Vector Bool 16) (s : State), ∃ t, transact (.setKeys k) s = .next (t, .done) ∧
    (∀ j : Fin 16, t.key[j] = k[j]) ∧ t = { s with key := t.key }) ∧
  ∀ (e : HostEvent) (s t : State) (r : Reply), transact e s = .next (t, r) →
    e ≠ .reset → (∀ k, e ≠ .setKeys k) → t.key = s.key

/-- LOAD_FONTSET from any state: the 80 bytes of FONT from 0x050, nothing else changed
(70_reset_and_hazards.md, LOAD_FONTSET; FONT is a parameter, the spec's own decision D11, log 4). -/
def Obligations.LoadFontsetWritesOnlyTheFont : Prop :=
  ∀ (font : Vector Byte 80) (s : State), ∃ t,
    transact (.loadFontset font) s = .next (t, .done) ∧ t = { s with mem := t.mem } ∧
    (∀ k : Fin 80, t.mem.read (0x050 + k.val) = font[k]) ∧
    ∀ a, a < 0x050 ∨ 0x0A0 ≤ a → t.mem.read a = s.mem.read a

/-- The host can read PC, with no effect, and after a CYCLE that raised a fault it reads the address
the faulting instruction was fetched from (60_exceptions.md sections 1 and 3; the rollback is the
spec's own decision D3, log 5; that the reading is a transaction of its own is the model's choice,
log 27). -/
def Obligations.HostReadsPcOfFaultingInstruction : Prop :=
  (∀ s : State, transact .readPc s = .next (s, .pc s.pc)) ∧
  ∀ (b : Byte) (s t : State) (f : Fault), s.fault = none →
    transact (.cycle b) s = .next (t, .cycled (some f)) →
    transact .readPc t = .next (t, .pc s.pc)
end

