-- ==== Sys2Proof/Laws/Decode.lean ====
section
/-! SUPPORT. The fields of an opcode, and the opcode made of fields, as numbers (R61, R62): what a
proof about decoding hands to omega. -/

namespace Sys2Proof

/-! ## Fields -/

theorem fieldClass_toNat (w : Word) : (fieldClass w).toNat = w.toNat / 4096 := by
  have := w.isLt
  simp [fieldClass, Nat.shiftRight_eq_div_pow]
  omega

theorem fieldX_val (w : Word) : (fieldX w).val = w.toNat / 256 % 16 := by
  simp [fieldX, Nat.shiftRight_eq_div_pow]

theorem fieldY_val (w : Word) : (fieldY w).val = w.toNat / 16 % 16 := by
  simp [fieldY, Nat.shiftRight_eq_div_pow]

theorem fieldN_toNat (w : Word) : (fieldN w).toNat = w.toNat % 16 := by simp [fieldN]

theorem fieldKK_toNat (w : Word) : (fieldKK w).toNat = w.toNat % 256 := by simp [fieldKK]

theorem fieldNNN_toNat (w : Word) : (fieldNNN w).toNat = w.toNat % 4096 := by simp [fieldNNN]

/-! ## Fields of a masked opcode: what selecting a row says about them (R65) -/

/-- A mask with ones in the class leaves the class as it is. -/
theorem fieldClass_and {w m : Word} (hm : fieldClass m = 0xF) :
    fieldClass (w &&& m) = fieldClass w := by
  simp only [fieldClass, BitVec.extractLsb'_and] at hm ⊢
  rw [hm]
  exact BitVec.and_allOnes

/-- A mask with ones in N leaves N as it is. -/
theorem fieldN_and {w m : Word} (hm : fieldN m = 0xF) : fieldN (w &&& m) = fieldN w := by
  simp only [fieldN, BitVec.extractLsb'_and] at hm ⊢
  rw [hm]
  exact BitVec.and_allOnes

/-- A mask with ones in the low byte leaves the low byte as it is. -/
theorem fieldKK_and {w m : Word} (hm : fieldKK m = 0xFF) : fieldKK (w &&& m) = fieldKK w := by
  simp only [fieldKK, BitVec.extractLsb'_and] at hm ⊢
  rw [hm]
  exact BitVec.and_allOnes

/-! ## Packing -/

theorem regBits_toNat (x : Reg) : (regBits x).toNat = x.val := by
  simp [regBits]

/-- A concatenation as a number (00_scope.md 6.1). -/
theorem append_toNat {n m : Nat} (a : BitVec n) (b : BitVec m) :
    (a ++ b).toNat = a.toNat * 2 ^ m + b.toNat := by
  rw [BitVec.toNat_append, ← Nat.shiftLeft_add_eq_or_of_lt b.isLt, Nat.shiftLeft_eq]

theorem packXYN_toNat (c : Nibble) (x y : Reg) (n : Nibble) :
    (packXYN c x y n).toNat = c.toNat * 4096 + x.val * 256 + y.val * 16 + n.toNat := by
  simp only [packXYN, append_toNat, regBits_toNat]
  omega

theorem packXKK_toNat (c : Nibble) (x : Reg) (kk : Byte) :
    (packXKK c x kk).toNat = c.toNat * 4096 + x.val * 256 + kk.toNat := by
  simp only [packXKK, append_toNat, regBits_toNat]
  omega

theorem packNNN_toNat (c : Nibble) (nnn : Addr12) :
    (packNNN c nnn).toNat = c.toNat * 4096 + nnn.toNat := by
  simp only [packNNN, append_toNat]
  omega

/-- The opcode of two bytes as a number (R46). -/
theorem joinBytes_toNat (hi lo : Byte) : (joinBytes hi lo).toNat = hi.toNat * 256 + lo.toNat := by
  simp only [joinBytes, append_toNat]
  omega

theorem highByte_toNat (w : Word) : (highByte w).toNat = w.toNat / 256 := by
  have := w.isLt
  simp [highByte, Nat.shiftRight_eq_div_pow]
  omega

theorem lowByte_toNat (w : Word) : (lowByte w).toNat = w.toNat % 256 := by simp [lowByte]

/-- Splitting an opcode into its bytes and joining them gives it back (R60). -/
@[simp] theorem joinBytes_highByte_lowByte (w : Word) :
    joinBytes (highByte w) (lowByte w) = w := by
  apply BitVec.eq_of_toNat_eq
  rw [joinBytes_toNat, highByte_toNat, lowByte_toNat]
  omega

/-! ## Fields of a packed opcode (R61, R62) -/

@[simp] theorem fieldClass_packXYN (c : Nibble) (x y : Reg) (n : Nibble) :
    fieldClass (packXYN c x y n) = c := by
  apply BitVec.eq_of_toNat_eq; rw [fieldClass_toNat, packXYN_toNat]; omega

@[simp] theorem fieldX_packXYN (c : Nibble) (x y : Reg) (n : Nibble) :
    fieldX (packXYN c x y n) = x := by
  apply Fin.ext; rw [fieldX_val, packXYN_toNat]; omega

@[simp] theorem fieldY_packXYN (c : Nibble) (x y : Reg) (n : Nibble) :
    fieldY (packXYN c x y n) = y := by
  apply Fin.ext; rw [fieldY_val, packXYN_toNat]; omega

@[simp] theorem fieldN_packXYN (c : Nibble) (x y : Reg) (n : Nibble) :
    fieldN (packXYN c x y n) = n := by
  apply BitVec.eq_of_toNat_eq; rw [fieldN_toNat, packXYN_toNat]; omega

@[simp] theorem fieldClass_packXKK (c : Nibble) (x : Reg) (kk : Byte) :
    fieldClass (packXKK c x kk) = c := by
  apply BitVec.eq_of_toNat_eq; rw [fieldClass_toNat, packXKK_toNat]; omega

@[simp] theorem fieldX_packXKK (c : Nibble) (x : Reg) (kk : Byte) :
    fieldX (packXKK c x kk) = x := by
  apply Fin.ext; rw [fieldX_val, packXKK_toNat]; omega

@[simp] theorem fieldKK_packXKK (c : Nibble) (x : Reg) (kk : Byte) :
    fieldKK (packXKK c x kk) = kk := by
  apply BitVec.eq_of_toNat_eq; rw [fieldKK_toNat, packXKK_toNat]; omega

@[simp] theorem fieldClass_packNNN (c : Nibble) (nnn : Addr12) :
    fieldClass (packNNN c nnn) = c := by
  apply BitVec.eq_of_toNat_eq; rw [fieldClass_toNat, packNNN_toNat]; omega

@[simp] theorem fieldNNN_packNNN (c : Nibble) (nnn : Addr12) :
    fieldNNN (packNNN c nnn) = nnn := by
  apply BitVec.eq_of_toNat_eq; rw [fieldNNN_toNat, packNNN_toNat]; omega

/-! ## Selecting a row (R65) -/

/-- The bits a row of mask 0xF000 looks at: the class (R65). -/
theorem and_class (w : Word) : w &&& 0xF000#16 = fieldClass w ++ (0 : BitVec 12) := by
  apply BitVec.eq_of_getLsbD_eq
  intro k hk
  simp only [fieldClass, BitVec.getLsbD_and, BitVec.getLsbD_append, BitVec.getLsbD_extractLsb']
  interval_cases k <;> simp

/-- The bits a row of mask 0xF00F looks at: the class and N (R65). -/
theorem and_class_n (w : Word) : w &&& 0xF00F#16 = fieldClass w ++ (0 : BitVec 8) ++ fieldN w := by
  apply BitVec.eq_of_getLsbD_eq
  intro k hk
  simp only [fieldClass, fieldN, BitVec.getLsbD_and, BitVec.getLsbD_append,
    BitVec.getLsbD_extractLsb']
  interval_cases k <;> simp

/-- The bits a row of mask 0xF0FF looks at: the class and the low byte (R65). -/
theorem and_class_kk (w : Word) :
    w &&& 0xF0FF#16 = fieldClass w ++ (0 : BitVec 4) ++ fieldKK w := by
  apply BitVec.eq_of_getLsbD_eq
  intro k hk
  simp only [fieldClass, fieldKK, BitVec.getLsbD_and, BitVec.getLsbD_append,
    BitVec.getLsbD_extractLsb']
  interval_cases k <;> simp

/-- Which opcodes select a row of mask 0xF000 (R65). -/
theorem selects_class {w p : Word} (s : String) (hp : p &&& 0xF000#16 = p) :
    OpcodeRow.selects ⟨s, 0xF000#16, p⟩ w = decide (fieldClass w = fieldClass p) := by
  rw [OpcodeRow.selects, Bool.beq_eq_decide_eq, decide_eq_decide]
  constructor
  · intro h
    have h : w &&& 0xF000#16 = p := h
    subst h
    exact (fieldClass_and (by decide)).symm
  · intro h
    rw [← hp, and_class, and_class, h]

/-- Which opcodes select a row of mask 0xF00F (R65). -/
theorem selects_class_n {w p : Word} (s : String) (hp : p &&& 0xF00F#16 = p) :
    OpcodeRow.selects ⟨s, 0xF00F#16, p⟩ w =
      decide (fieldClass w = fieldClass p ∧ fieldN w = fieldN p) := by
  rw [OpcodeRow.selects, Bool.beq_eq_decide_eq, decide_eq_decide]
  constructor
  · intro h
    have h : w &&& 0xF00F#16 = p := h
    subst h
    exact ⟨(fieldClass_and (by decide)).symm, (fieldN_and (by decide)).symm⟩
  · rintro ⟨h, h'⟩
    rw [← hp, and_class_n, and_class_n, h, h']

/-- Which opcodes select a row of mask 0xF0FF (R65). -/
theorem selects_class_kk {w p : Word} (s : String) (hp : p &&& 0xF0FF#16 = p) :
    OpcodeRow.selects ⟨s, 0xF0FF#16, p⟩ w =
      decide (fieldClass w = fieldClass p ∧ fieldKK w = fieldKK p) := by
  rw [OpcodeRow.selects, Bool.beq_eq_decide_eq, decide_eq_decide]
  constructor
  · intro h
    have h : w &&& 0xF0FF#16 = p := h
    subst h
    exact ⟨(fieldClass_and (by decide)).symm, (fieldKK_and (by decide)).symm⟩
  · rintro ⟨h, h'⟩
    rw [← hp, and_class_kk, and_class_kk, h, h']

/-- Which opcode selects a row of mask 0xFFFF (R65). -/
theorem selects_word {w p : Word} (s : String) :
    OpcodeRow.selects ⟨s, 0xFFFF#16, p⟩ w = decide (w = p) := by
  have h : w &&& 0xFFFF#16 = w := BitVec.and_allOnes (x := w)
  rw [OpcodeRow.selects, Bool.beq_eq_decide_eq, h]

end Sys2Proof
end

