-- ==== Sys2Proof/Laws/State.lean ====
section
/-! SUPPORT. One lemma per field per update of State, and what a register reads as after each
update; no later proof unfolds a record update. -/

namespace Sys2Proof.Machine

variable (s : State)

/-! ### setReg -/

@[simp] theorem State.setReg_v (x : Reg) (b : Byte) :
    (s.setReg x b).v = s.v.set x b := rfl

@[simp] theorem State.setReg_i (x : Reg) (b : Byte) :
    (s.setReg x b).i = s.i := rfl

@[simp] theorem State.setReg_pc (x : Reg) (b : Byte) :
    (s.setReg x b).pc = s.pc := rfl

@[simp] theorem State.setReg_stack (x : Reg) (b : Byte) :
    (s.setReg x b).stack = s.stack := rfl

@[simp] theorem State.setReg_sp (x : Reg) (b : Byte) :
    (s.setReg x b).sp = s.sp := rfl

@[simp] theorem State.setReg_dt (x : Reg) (b : Byte) :
    (s.setReg x b).dt = s.dt := rfl

@[simp] theorem State.setReg_st (x : Reg) (b : Byte) :
    (s.setReg x b).st = s.st := rfl

@[simp] theorem State.setReg_mem (x : Reg) (b : Byte) :
    (s.setReg x b).mem = s.mem := rfl

@[simp] theorem State.setReg_disp (x : Reg) (b : Byte) :
    (s.setReg x b).disp = s.disp := rfl

@[simp] theorem State.setReg_key (x : Reg) (b : Byte) :
    (s.setReg x b).key = s.key := rfl

@[simp] theorem State.setReg_fault (x : Reg) (b : Byte) :
    (s.setReg x b).fault = s.fault := rfl

@[simp] theorem State.setReg_rndIn (x : Reg) (b : Byte) :
    (s.setReg x b).rndIn = s.rndIn := rfl

@[simp] theorem State.setReg_rndDrawn (x : Reg) (b : Byte) :
    (s.setReg x b).rndDrawn = s.rndDrawn := rfl

/-! ### setI -/

@[simp] theorem State.setI_v (a : Word) :
    (s.setI a).v = s.v := rfl

@[simp] theorem State.setI_i (a : Word) :
    (s.setI a).i = a := rfl

@[simp] theorem State.setI_pc (a : Word) :
    (s.setI a).pc = s.pc := rfl

@[simp] theorem State.setI_stack (a : Word) :
    (s.setI a).stack = s.stack := rfl

@[simp] theorem State.setI_sp (a : Word) :
    (s.setI a).sp = s.sp := rfl

@[simp] theorem State.setI_dt (a : Word) :
    (s.setI a).dt = s.dt := rfl

@[simp] theorem State.setI_st (a : Word) :
    (s.setI a).st = s.st := rfl

@[simp] theorem State.setI_mem (a : Word) :
    (s.setI a).mem = s.mem := rfl

@[simp] theorem State.setI_disp (a : Word) :
    (s.setI a).disp = s.disp := rfl

@[simp] theorem State.setI_key (a : Word) :
    (s.setI a).key = s.key := rfl

@[simp] theorem State.setI_fault (a : Word) :
    (s.setI a).fault = s.fault := rfl

@[simp] theorem State.setI_rndIn (a : Word) :
    (s.setI a).rndIn = s.rndIn := rfl

@[simp] theorem State.setI_rndDrawn (a : Word) :
    (s.setI a).rndDrawn = s.rndDrawn := rfl

@[simp] theorem State.setI_reg (a : Word) (r : Reg) :
    (s.setI a).reg r = s.reg r := rfl

/-! ### setPc -/

@[simp] theorem State.setPc_v (a : Word) :
    (s.setPc a).v = s.v := rfl

@[simp] theorem State.setPc_i (a : Word) :
    (s.setPc a).i = s.i := rfl

@[simp] theorem State.setPc_pc (a : Word) :
    (s.setPc a).pc = a := rfl

@[simp] theorem State.setPc_stack (a : Word) :
    (s.setPc a).stack = s.stack := rfl

@[simp] theorem State.setPc_sp (a : Word) :
    (s.setPc a).sp = s.sp := rfl

@[simp] theorem State.setPc_dt (a : Word) :
    (s.setPc a).dt = s.dt := rfl

@[simp] theorem State.setPc_st (a : Word) :
    (s.setPc a).st = s.st := rfl

@[simp] theorem State.setPc_mem (a : Word) :
    (s.setPc a).mem = s.mem := rfl

@[simp] theorem State.setPc_disp (a : Word) :
    (s.setPc a).disp = s.disp := rfl

@[simp] theorem State.setPc_key (a : Word) :
    (s.setPc a).key = s.key := rfl

@[simp] theorem State.setPc_fault (a : Word) :
    (s.setPc a).fault = s.fault := rfl

@[simp] theorem State.setPc_rndIn (a : Word) :
    (s.setPc a).rndIn = s.rndIn := rfl

@[simp] theorem State.setPc_rndDrawn (a : Word) :
    (s.setPc a).rndDrawn = s.rndDrawn := rfl

@[simp] theorem State.setPc_reg (a : Word) (r : Reg) :
    (s.setPc a).reg r = s.reg r := rfl

/-! ### setDt -/

@[simp] theorem State.setDt_v (b : Byte) :
    (s.setDt b).v = s.v := rfl

@[simp] theorem State.setDt_i (b : Byte) :
    (s.setDt b).i = s.i := rfl

@[simp] theorem State.setDt_pc (b : Byte) :
    (s.setDt b).pc = s.pc := rfl

@[simp] theorem State.setDt_stack (b : Byte) :
    (s.setDt b).stack = s.stack := rfl

@[simp] theorem State.setDt_sp (b : Byte) :
    (s.setDt b).sp = s.sp := rfl

@[simp] theorem State.setDt_dt (b : Byte) :
    (s.setDt b).dt = b := rfl

@[simp] theorem State.setDt_st (b : Byte) :
    (s.setDt b).st = s.st := rfl

@[simp] theorem State.setDt_mem (b : Byte) :
    (s.setDt b).mem = s.mem := rfl

@[simp] theorem State.setDt_disp (b : Byte) :
    (s.setDt b).disp = s.disp := rfl

@[simp] theorem State.setDt_key (b : Byte) :
    (s.setDt b).key = s.key := rfl

@[simp] theorem State.setDt_fault (b : Byte) :
    (s.setDt b).fault = s.fault := rfl

@[simp] theorem State.setDt_rndIn (b : Byte) :
    (s.setDt b).rndIn = s.rndIn := rfl

@[simp] theorem State.setDt_rndDrawn (b : Byte) :
    (s.setDt b).rndDrawn = s.rndDrawn := rfl

@[simp] theorem State.setDt_reg (b : Byte) (r : Reg) :
    (s.setDt b).reg r = s.reg r := rfl

/-! ### setSt -/

@[simp] theorem State.setSt_v (b : Byte) :
    (s.setSt b).v = s.v := rfl

@[simp] theorem State.setSt_i (b : Byte) :
    (s.setSt b).i = s.i := rfl

@[simp] theorem State.setSt_pc (b : Byte) :
    (s.setSt b).pc = s.pc := rfl

@[simp] theorem State.setSt_stack (b : Byte) :
    (s.setSt b).stack = s.stack := rfl

@[simp] theorem State.setSt_sp (b : Byte) :
    (s.setSt b).sp = s.sp := rfl

@[simp] theorem State.setSt_dt (b : Byte) :
    (s.setSt b).dt = s.dt := rfl

@[simp] theorem State.setSt_st (b : Byte) :
    (s.setSt b).st = b := rfl

@[simp] theorem State.setSt_mem (b : Byte) :
    (s.setSt b).mem = s.mem := rfl

@[simp] theorem State.setSt_disp (b : Byte) :
    (s.setSt b).disp = s.disp := rfl

@[simp] theorem State.setSt_key (b : Byte) :
    (s.setSt b).key = s.key := rfl

@[simp] theorem State.setSt_fault (b : Byte) :
    (s.setSt b).fault = s.fault := rfl

@[simp] theorem State.setSt_rndIn (b : Byte) :
    (s.setSt b).rndIn = s.rndIn := rfl

@[simp] theorem State.setSt_rndDrawn (b : Byte) :
    (s.setSt b).rndDrawn = s.rndDrawn := rfl

@[simp] theorem State.setSt_reg (b : Byte) (r : Reg) :
    (s.setSt b).reg r = s.reg r := rfl

/-! ### setMem -/

@[simp] theorem State.setMem_v (m : Memory) :
    (s.setMem m).v = s.v := rfl

@[simp] theorem State.setMem_i (m : Memory) :
    (s.setMem m).i = s.i := rfl

@[simp] theorem State.setMem_pc (m : Memory) :
    (s.setMem m).pc = s.pc := rfl

@[simp] theorem State.setMem_stack (m : Memory) :
    (s.setMem m).stack = s.stack := rfl

@[simp] theorem State.setMem_sp (m : Memory) :
    (s.setMem m).sp = s.sp := rfl

@[simp] theorem State.setMem_dt (m : Memory) :
    (s.setMem m).dt = s.dt := rfl

@[simp] theorem State.setMem_st (m : Memory) :
    (s.setMem m).st = s.st := rfl

@[simp] theorem State.setMem_mem (m : Memory) :
    (s.setMem m).mem = m := rfl

@[simp] theorem State.setMem_disp (m : Memory) :
    (s.setMem m).disp = s.disp := rfl

@[simp] theorem State.setMem_key (m : Memory) :
    (s.setMem m).key = s.key := rfl

@[simp] theorem State.setMem_fault (m : Memory) :
    (s.setMem m).fault = s.fault := rfl

@[simp] theorem State.setMem_rndIn (m : Memory) :
    (s.setMem m).rndIn = s.rndIn := rfl

@[simp] theorem State.setMem_rndDrawn (m : Memory) :
    (s.setMem m).rndDrawn = s.rndDrawn := rfl

@[simp] theorem State.setMem_reg (m : Memory) (r : Reg) :
    (s.setMem m).reg r = s.reg r := rfl

/-! ### setDisp -/

@[simp] theorem State.setDisp_v (d : Memory) :
    (s.setDisp d).v = s.v := rfl

@[simp] theorem State.setDisp_i (d : Memory) :
    (s.setDisp d).i = s.i := rfl

@[simp] theorem State.setDisp_pc (d : Memory) :
    (s.setDisp d).pc = s.pc := rfl

@[simp] theorem State.setDisp_stack (d : Memory) :
    (s.setDisp d).stack = s.stack := rfl

@[simp] theorem State.setDisp_sp (d : Memory) :
    (s.setDisp d).sp = s.sp := rfl

@[simp] theorem State.setDisp_dt (d : Memory) :
    (s.setDisp d).dt = s.dt := rfl

@[simp] theorem State.setDisp_st (d : Memory) :
    (s.setDisp d).st = s.st := rfl

@[simp] theorem State.setDisp_mem (d : Memory) :
    (s.setDisp d).mem = s.mem := rfl

@[simp] theorem State.setDisp_disp (d : Memory) :
    (s.setDisp d).disp = d := rfl

@[simp] theorem State.setDisp_key (d : Memory) :
    (s.setDisp d).key = s.key := rfl

@[simp] theorem State.setDisp_fault (d : Memory) :
    (s.setDisp d).fault = s.fault := rfl

@[simp] theorem State.setDisp_rndIn (d : Memory) :
    (s.setDisp d).rndIn = s.rndIn := rfl

@[simp] theorem State.setDisp_rndDrawn (d : Memory) :
    (s.setDisp d).rndDrawn = s.rndDrawn := rfl

@[simp] theorem State.setDisp_reg (d : Memory) (r : Reg) :
    (s.setDisp d).reg r = s.reg r := rfl

/-! ### setStack -/

@[simp] theorem State.setStack_v (k : Vector Word 16) (n : Fin 17) :
    (s.setStack k n).v = s.v := rfl

@[simp] theorem State.setStack_i (k : Vector Word 16) (n : Fin 17) :
    (s.setStack k n).i = s.i := rfl

@[simp] theorem State.setStack_pc (k : Vector Word 16) (n : Fin 17) :
    (s.setStack k n).pc = s.pc := rfl

@[simp] theorem State.setStack_stack (k : Vector Word 16) (n : Fin 17) :
    (s.setStack k n).stack = k := rfl

@[simp] theorem State.setStack_sp (k : Vector Word 16) (n : Fin 17) :
    (s.setStack k n).sp = n := rfl

@[simp] theorem State.setStack_dt (k : Vector Word 16) (n : Fin 17) :
    (s.setStack k n).dt = s.dt := rfl

@[simp] theorem State.setStack_st (k : Vector Word 16) (n : Fin 17) :
    (s.setStack k n).st = s.st := rfl

@[simp] theorem State.setStack_mem (k : Vector Word 16) (n : Fin 17) :
    (s.setStack k n).mem = s.mem := rfl

@[simp] theorem State.setStack_disp (k : Vector Word 16) (n : Fin 17) :
    (s.setStack k n).disp = s.disp := rfl

@[simp] theorem State.setStack_key (k : Vector Word 16) (n : Fin 17) :
    (s.setStack k n).key = s.key := rfl

@[simp] theorem State.setStack_fault (k : Vector Word 16) (n : Fin 17) :
    (s.setStack k n).fault = s.fault := rfl

@[simp] theorem State.setStack_rndIn (k : Vector Word 16) (n : Fin 17) :
    (s.setStack k n).rndIn = s.rndIn := rfl

@[simp] theorem State.setStack_rndDrawn (k : Vector Word 16) (n : Fin 17) :
    (s.setStack k n).rndDrawn = s.rndDrawn := rfl

@[simp] theorem State.setStack_reg (k : Vector Word 16) (n : Fin 17) (r : Reg) :
    (s.setStack k n).reg r = s.reg r := rfl

/-! ### setKey -/

@[simp] theorem State.setKey_v (k : Vector Bool 16) :
    (s.setKey k).v = s.v := rfl

@[simp] theorem State.setKey_i (k : Vector Bool 16) :
    (s.setKey k).i = s.i := rfl

@[simp] theorem State.setKey_pc (k : Vector Bool 16) :
    (s.setKey k).pc = s.pc := rfl

@[simp] theorem State.setKey_stack (k : Vector Bool 16) :
    (s.setKey k).stack = s.stack := rfl

@[simp] theorem State.setKey_sp (k : Vector Bool 16) :
    (s.setKey k).sp = s.sp := rfl

@[simp] theorem State.setKey_dt (k : Vector Bool 16) :
    (s.setKey k).dt = s.dt := rfl

@[simp] theorem State.setKey_st (k : Vector Bool 16) :
    (s.setKey k).st = s.st := rfl

@[simp] theorem State.setKey_mem (k : Vector Bool 16) :
    (s.setKey k).mem = s.mem := rfl

@[simp] theorem State.setKey_disp (k : Vector Bool 16) :
    (s.setKey k).disp = s.disp := rfl

@[simp] theorem State.setKey_key (k : Vector Bool 16) :
    (s.setKey k).key = k := rfl

@[simp] theorem State.setKey_fault (k : Vector Bool 16) :
    (s.setKey k).fault = s.fault := rfl

@[simp] theorem State.setKey_rndIn (k : Vector Bool 16) :
    (s.setKey k).rndIn = s.rndIn := rfl

@[simp] theorem State.setKey_rndDrawn (k : Vector Bool 16) :
    (s.setKey k).rndDrawn = s.rndDrawn := rfl

@[simp] theorem State.setKey_reg (k : Vector Bool 16) (r : Reg) :
    (s.setKey k).reg r = s.reg r := rfl

/-! ### setFault -/

@[simp] theorem State.setFault_v (f : Fault) :
    (s.setFault f).v = s.v := rfl

@[simp] theorem State.setFault_i (f : Fault) :
    (s.setFault f).i = s.i := rfl

@[simp] theorem State.setFault_pc (f : Fault) :
    (s.setFault f).pc = s.pc := rfl

@[simp] theorem State.setFault_stack (f : Fault) :
    (s.setFault f).stack = s.stack := rfl

@[simp] theorem State.setFault_sp (f : Fault) :
    (s.setFault f).sp = s.sp := rfl

@[simp] theorem State.setFault_dt (f : Fault) :
    (s.setFault f).dt = s.dt := rfl

@[simp] theorem State.setFault_st (f : Fault) :
    (s.setFault f).st = s.st := rfl

@[simp] theorem State.setFault_mem (f : Fault) :
    (s.setFault f).mem = s.mem := rfl

@[simp] theorem State.setFault_disp (f : Fault) :
    (s.setFault f).disp = s.disp := rfl

@[simp] theorem State.setFault_key (f : Fault) :
    (s.setFault f).key = s.key := rfl

@[simp] theorem State.setFault_fault (f : Fault) :
    (s.setFault f).fault = some f := rfl

@[simp] theorem State.setFault_rndIn (f : Fault) :
    (s.setFault f).rndIn = s.rndIn := rfl

@[simp] theorem State.setFault_rndDrawn (f : Fault) :
    (s.setFault f).rndDrawn = s.rndDrawn := rfl

@[simp] theorem State.setFault_reg (f : Fault) (r : Reg) :
    (s.setFault f).reg r = s.reg r := rfl

/-! ### setFirstRegs -/

@[simp] theorem State.setFirstRegs_v (bs : List Byte) :
    (s.setFirstRegs bs).v = setRegsFrom s.v 0 bs := rfl

@[simp] theorem State.setFirstRegs_i (bs : List Byte) :
    (s.setFirstRegs bs).i = s.i := rfl

@[simp] theorem State.setFirstRegs_pc (bs : List Byte) :
    (s.setFirstRegs bs).pc = s.pc := rfl

@[simp] theorem State.setFirstRegs_stack (bs : List Byte) :
    (s.setFirstRegs bs).stack = s.stack := rfl

@[simp] theorem State.setFirstRegs_sp (bs : List Byte) :
    (s.setFirstRegs bs).sp = s.sp := rfl

@[simp] theorem State.setFirstRegs_dt (bs : List Byte) :
    (s.setFirstRegs bs).dt = s.dt := rfl

@[simp] theorem State.setFirstRegs_st (bs : List Byte) :
    (s.setFirstRegs bs).st = s.st := rfl

@[simp] theorem State.setFirstRegs_mem (bs : List Byte) :
    (s.setFirstRegs bs).mem = s.mem := rfl

@[simp] theorem State.setFirstRegs_disp (bs : List Byte) :
    (s.setFirstRegs bs).disp = s.disp := rfl

@[simp] theorem State.setFirstRegs_key (bs : List Byte) :
    (s.setFirstRegs bs).key = s.key := rfl

@[simp] theorem State.setFirstRegs_fault (bs : List Byte) :
    (s.setFirstRegs bs).fault = s.fault := rfl

@[simp] theorem State.setFirstRegs_rndIn (bs : List Byte) :
    (s.setFirstRegs bs).rndIn = s.rndIn := rfl

@[simp] theorem State.setFirstRegs_rndDrawn (bs : List Byte) :
    (s.setFirstRegs bs).rndDrawn = s.rndDrawn := rfl

/-! ### consumeRnd -/

@[simp] theorem State.consumeRnd_v : s.consumeRnd.v = s.v := by
  unfold State.consumeRnd; split <;> rfl

@[simp] theorem State.consumeRnd_i : s.consumeRnd.i = s.i := by
  unfold State.consumeRnd; split <;> rfl

@[simp] theorem State.consumeRnd_pc : s.consumeRnd.pc = s.pc := by
  unfold State.consumeRnd; split <;> rfl

@[simp] theorem State.consumeRnd_stack : s.consumeRnd.stack = s.stack := by
  unfold State.consumeRnd; split <;> rfl

@[simp] theorem State.consumeRnd_sp : s.consumeRnd.sp = s.sp := by
  unfold State.consumeRnd; split <;> rfl

@[simp] theorem State.consumeRnd_dt : s.consumeRnd.dt = s.dt := by
  unfold State.consumeRnd; split <;> rfl

@[simp] theorem State.consumeRnd_st : s.consumeRnd.st = s.st := by
  unfold State.consumeRnd; split <;> rfl

@[simp] theorem State.consumeRnd_mem : s.consumeRnd.mem = s.mem := by
  unfold State.consumeRnd; split <;> rfl

@[simp] theorem State.consumeRnd_disp : s.consumeRnd.disp = s.disp := by
  unfold State.consumeRnd; split <;> rfl

@[simp] theorem State.consumeRnd_key : s.consumeRnd.key = s.key := by
  unfold State.consumeRnd; split <;> rfl

@[simp] theorem State.consumeRnd_fault : s.consumeRnd.fault = s.fault := by
  unfold State.consumeRnd; split <;> rfl

@[simp] theorem State.consumeRnd_reg (r : Reg) : s.consumeRnd.reg r = s.reg r := by
  simp [State.reg]

/-! ### registers -/

/-- A register reads as what was last written to it (R10: none is hard-wired). -/
@[simp] theorem State.setReg_reg_same (x : Reg) (b : Byte) : (s.setReg x b).reg x = b := by
  simp [State.reg]

/-- Writing one register leaves every other alone. -/
theorem State.setReg_reg_of_ne (b : Byte) {x r : Reg} (h : r ≠ x) :
    (s.setReg x b).reg r = s.reg r := by
  have h' : x.val ≠ r.val := fun e => h (Fin.ext e.symm)
  simp [State.reg, h']

/-- Both cases of reading after a register write. -/
theorem State.setReg_reg (x r : Reg) (b : Byte) :
    (s.setReg x b).reg r = if r = x then b else s.reg r := by
  split
  · next h => simp [h]
  · next h => exact s.setReg_reg_of_ne b h

/-- What a run of register writes leaves in register `r` (R125). -/
theorem setRegsFrom_getElem (bs : List Byte) (v : Vector Byte 16) (k : Nat) (r : Reg) :
    (setRegsFrom v k bs)[r] = if h : k ≤ r.val ∧ r.val < k + bs.length then bs[r.val - k]'(by omega)
      else v[r] := by
  induction bs generalizing v k with
  | nil => simp only [setRegsFrom, List.length_nil]; rw [dif_neg (by omega)]
  | cons b bs ih =>
    rw [setRegsFrom, ih]
    by_cases h0 : r.val = k
    · subst h0
      rw [dif_neg (by omega), dif_pos (by simp)]
      simp
    · by_cases h1 : k + 1 ≤ r.val ∧ r.val < k + 1 + bs.length
      · rw [dif_pos h1, dif_pos (by simp only [List.length_cons]; omega)]
        have e : r.val - k = r.val - (k + 1) + 1 := by omega
        simp [e]
      · rw [dif_neg h1, dif_neg (by simp only [List.length_cons]; omega)]
        have e : ¬k = r.val := fun e => h0 e.symm
        simp [e]

/-- `setFirstRegs` writes V[0] to V[length-1] and no other register (R125). -/
theorem State.setFirstRegs_reg (bs : List Byte) (r : Reg) :
    (s.setFirstRegs bs).reg r = if h : r.val < bs.length then bs[r.val] else s.reg r := by
  simp only [State.reg, State.setFirstRegs_v, setRegsFrom_getElem]
  by_cases h : r.val < bs.length
  · rw [dif_pos (by omega), dif_pos h]; simp
  · rw [dif_neg (by omega), dif_neg h]

/-- `firstRegs n` holds V[0] to V[n-1] (R124). -/
theorem State.firstRegs_getElem? (n k : Nat) (hn : n ≤ 16) (hk : k < n) :
    (s.firstRegs n)[k]? = some (s.reg ⟨k, by omega⟩) := by
  have h16 : k < 16 := by omega
  simp [State.firstRegs, State.reg, hk, h16]

@[simp] theorem State.firstRegs_length (n : Nat) (hn : n ≤ 16) : (s.firstRegs n).length = n := by
  simp [State.firstRegs, hn]

end Sys2Proof.Machine
end

