-- ==== Sys2Proof/Laws/Flags.lean ====
section
/-! SUPPORT. What the two write orders of an arithmetic instruction leave in VX, in VF and in every
other register (spec/40_cycle.md R86), and the flag values as numbers. -/

namespace Sys2Proof.Machine

variable (s : State) (x : Reg) (r : Byte) (c : Bool)

/-! ## Flag values -/

theorem flagByte_toNat : (flagByte c).toNat = if c = true then 1 else 0 := by cases c <;> rfl

theorem carryOut_iff (a b : Byte) : carryOut a b = true ↔ a.toNat + b.toNat > 255 := by
  simp [carryOut]

theorem strictlyGreater_iff (a b : Byte) : strictlyGreater a b = true ↔ a.toNat > b.toNat := by
  simp [strictlyGreater]

/-! ## VX, then VF -/

@[simp] theorem State.setResultThenFlag_reg_flag :
    (s.setResultThenFlag x r c).reg 15 = flagByte c := by simp [State.setResultThenFlag]

theorem State.setResultThenFlag_reg_result (h : x ≠ 15) :
    (s.setResultThenFlag x r c).reg x = r := by
  rw [State.setResultThenFlag, State.setReg_reg_of_ne _ _ h, State.setReg_reg_same]

theorem State.setResultThenFlag_reg_other {q : Reg} (hx : q ≠ x) (hf : q ≠ 15) :
    (s.setResultThenFlag x r c).reg q = s.reg q := by
  rw [State.setResultThenFlag, State.setReg_reg_of_ne _ _ hf, State.setReg_reg_of_ne _ _ hx]

/-! ## VF, then VX -/

@[simp] theorem State.setFlagThenResult_reg_result :
    (s.setFlagThenResult x r c).reg x = r := by simp [State.setFlagThenResult]

theorem State.setFlagThenResult_reg_flag (h : x ≠ 15) :
    (s.setFlagThenResult x r c).reg 15 = flagByte c := by
  rw [State.setFlagThenResult, State.setReg_reg_of_ne _ _ (Ne.symm h), State.setReg_reg_same]

theorem State.setFlagThenResult_reg_other {q : Reg} (hx : q ≠ x) (hf : q ≠ 15) :
    (s.setFlagThenResult x r c).reg q = s.reg q := by
  rw [State.setFlagThenResult, State.setReg_reg_of_ne _ _ hx, State.setReg_reg_of_ne _ _ hf]

/-! ## Every other field -/

@[simp] theorem State.setResultThenFlag_i : (s.setResultThenFlag x r c).i = s.i := rfl

@[simp] theorem State.setResultThenFlag_pc : (s.setResultThenFlag x r c).pc = s.pc := rfl

@[simp] theorem State.setResultThenFlag_stack : (s.setResultThenFlag x r c).stack = s.stack := rfl

@[simp] theorem State.setResultThenFlag_sp : (s.setResultThenFlag x r c).sp = s.sp := rfl

@[simp] theorem State.setResultThenFlag_dt : (s.setResultThenFlag x r c).dt = s.dt := rfl

@[simp] theorem State.setResultThenFlag_st : (s.setResultThenFlag x r c).st = s.st := rfl

@[simp] theorem State.setResultThenFlag_mem : (s.setResultThenFlag x r c).mem = s.mem := rfl

@[simp] theorem State.setResultThenFlag_disp : (s.setResultThenFlag x r c).disp = s.disp := rfl

@[simp] theorem State.setResultThenFlag_key : (s.setResultThenFlag x r c).key = s.key := rfl

@[simp] theorem State.setResultThenFlag_fault : (s.setResultThenFlag x r c).fault = s.fault := rfl

@[simp] theorem State.setResultThenFlag_rndIn : (s.setResultThenFlag x r c).rndIn = s.rndIn := rfl

@[simp] theorem State.setResultThenFlag_rndDrawn : (s.setResultThenFlag x r c).rndDrawn = s.rndDrawn := rfl

@[simp] theorem State.setFlagThenResult_i : (s.setFlagThenResult x r c).i = s.i := rfl

@[simp] theorem State.setFlagThenResult_pc : (s.setFlagThenResult x r c).pc = s.pc := rfl

@[simp] theorem State.setFlagThenResult_stack : (s.setFlagThenResult x r c).stack = s.stack := rfl

@[simp] theorem State.setFlagThenResult_sp : (s.setFlagThenResult x r c).sp = s.sp := rfl

@[simp] theorem State.setFlagThenResult_dt : (s.setFlagThenResult x r c).dt = s.dt := rfl

@[simp] theorem State.setFlagThenResult_st : (s.setFlagThenResult x r c).st = s.st := rfl

@[simp] theorem State.setFlagThenResult_mem : (s.setFlagThenResult x r c).mem = s.mem := rfl

@[simp] theorem State.setFlagThenResult_disp : (s.setFlagThenResult x r c).disp = s.disp := rfl

@[simp] theorem State.setFlagThenResult_key : (s.setFlagThenResult x r c).key = s.key := rfl

@[simp] theorem State.setFlagThenResult_fault : (s.setFlagThenResult x r c).fault = s.fault := rfl

@[simp] theorem State.setFlagThenResult_rndIn : (s.setFlagThenResult x r c).rndIn = s.rndIn := rfl

@[simp] theorem State.setFlagThenResult_rndDrawn : (s.setFlagThenResult x r c).rndDrawn = s.rndDrawn := rfl

end Sys2Proof.Machine
end

