-- ==== Sys2Proof/Laws/Memory.lean ====
section
/-! SUPPORT. Sparse byte arrays: reading after writing, and that every operation keeps the
canonical form. -/

namespace Sys2Proof.Machine

/-! ## Read after write -/

@[simp] theorem Memory.read_nil (a : Nat) : Memory.read [] a = 0 := rfl

theorem Memory.read_cons (c : Host.Cell) (m : Memory) (a : Nat) :
    Memory.read (c :: m) a = if c.1 = a then c.2 else Memory.read m a := rfl

/-- Where no entry has the index, it reads as 0x00. -/
theorem Memory.read_of_unlisted {m : Memory} {a : Nat} (h : ∀ c ∈ m, c.1 ≠ a) : m.read a = 0 := by
  induction m with
  | nil => rfl
  | cons c m ih =>
    rw [Memory.read_cons, if_neg (h c (by simp))]
    exact ih fun d hd => h d (by simp [hd])

theorem Memory.read_filter (m : Memory) (a a' : Nat) (h : a' ≠ a) :
    Memory.read (m.filter fun c => c.1 != a) a' = m.read a' := by
  induction m with
  | nil => rfl
  | cons c m ih =>
    by_cases hc : c.1 = a
    · have : c.1 ≠ a' := fun e => h (e ▸ hc)
      rw [List.filter_cons_of_neg (by simp [hc]), ih, Memory.read_cons, if_neg this]
    · rw [List.filter_cons_of_pos (by simp [hc]), Memory.read_cons, Memory.read_cons, ih]

theorem Memory.read_insertCell (a : Nat) (b : Byte) (m : Memory) (a' : Nat)
    (h : ∀ c ∈ m, c.1 ≠ a) :
    Memory.read (Memory.insertCell a b m) a' = if a = a' then b else m.read a' := by
  induction m with
  | nil => rfl
  | cons c m ih =>
    obtain ⟨c1, c2⟩ := c
    have hc : c1 ≠ a := h (c1, c2) (by simp)
    rw [Memory.insertCell]
    split
    · rfl
    · rw [Memory.read_cons, ih fun d hd => h d (by simp [hd]), Memory.read_cons]
      by_cases h1 : c1 = a'
      · have : a ≠ a' := fun e => hc (h1.trans e.symm)
        simp [h1, this]
      · simp [h1]

/-- Reading after a write: the written index gives the byte, every other index what it gave. -/
theorem Memory.read_write (m : Memory) (a a' : Nat) (b : Byte) :
    (m.write a b).read a' = if a = a' then b else m.read a' := by
  have hf : ∀ c ∈ m.filter (fun c => c.1 != a), c.1 ≠ a := by simp
  unfold Memory.write
  split
  · next hb =>
    split
    · next h => subst h; rw [Memory.read_of_unlisted hf, hb]
    · next h => exact Memory.read_filter m a a' (Ne.symm h)
  · rw [Memory.read_insertCell a b _ a' hf]
    split
    · rfl
    · next h => exact Memory.read_filter m a a' (Ne.symm h)

@[simp] theorem Memory.read_write_same (m : Memory) (a : Nat) (b : Byte) :
    (m.write a b).read a = b := by simp [Memory.read_write]

theorem Memory.read_write_of_ne (m : Memory) {a a' : Nat} (b : Byte) (h : a' ≠ a) :
    (m.write a b).read a' = m.read a' := by simp [Memory.read_write, Ne.symm h]

/-! ## Ranges of bytes -/

@[simp] theorem Memory.length_readBytes (m : Memory) (lo n : Nat) :
    (m.readBytes lo n).length = n := by
  induction n generalizing lo with
  | zero => rfl
  | succ n ih => simp [Memory.readBytes, ih]

theorem Memory.getElem_readBytes (m : Memory) (lo n k : Nat) (h : k < n) :
    (m.readBytes lo n)[k]'(by simpa using h) = m.read (lo + k) := by
  induction n generalizing lo k with
  | zero => omega
  | succ n ih =>
    cases k with
    | zero => simp [Memory.readBytes]
    | succ k =>
      have := ih (lo + 1) k (by omega)
      simpa [Memory.readBytes, Nat.add_assoc, Nat.add_comm 1 k] using this

/-- Reading after a range of bytes was written. -/
theorem Memory.read_writeBytes (bs : List Byte) (m : Memory) (lo a : Nat) :
    (m.writeBytes lo bs).read a =
      if h : lo ≤ a ∧ a < lo + bs.length then bs[a - lo]'(by omega) else m.read a := by
  induction bs generalizing m lo with
  | nil => simp only [Memory.writeBytes, List.length_nil]; rw [dif_neg (by omega)]
  | cons b bs ih =>
    rw [Memory.writeBytes, ih]
    by_cases h0 : a = lo
    · subst h0
      rw [dif_neg (by omega), dif_pos (by simp)]
      simp
    · by_cases h1 : lo + 1 ≤ a ∧ a < lo + 1 + bs.length
      · rw [dif_pos h1, dif_pos (by simp only [List.length_cons]; omega)]
        have e : a - lo = a - (lo + 1) + 1 := by omega
        simp [e]
      · rw [dif_neg h1, dif_neg (by simp only [List.length_cons]; omega)]
        exact Memory.read_write_of_ne m b h0

/-! ## The canonical form is kept -/

theorem Memory.wf_nil : Memory.wf [] := by simp [Memory.wf]

theorem Memory.mem_insertCell {a : Nat} {b : Byte} {m : Memory} {c : Host.Cell} :
    c ∈ Memory.insertCell a b m ↔ c = (a, b) ∨ c ∈ m := by
  induction m with
  | nil => simp [Memory.insertCell]
  | cons d m ih =>
    rw [Memory.insertCell]
    split
    · simp
    · simp [ih, or_left_comm]

theorem Memory.wf_insertCell {a : Nat} {b : Byte} {m : Memory} (hm : m.wf) (hb : b ≠ 0)
    (ha : ∀ c ∈ m, c.1 ≠ a) : Memory.wf (Memory.insertCell a b m) := by
  refine ⟨?_, fun c hc => ?_⟩
  · have hs := hm.1
    clear hm
    induction m with
    | nil => simp [Memory.insertCell]
    | cons d m ih =>
      obtain ⟨d1, d2⟩ := d
      have hd : d1 ≠ a := ha (d1, d2) (by simp)
      rw [List.pairwise_cons] at hs
      rw [Memory.insertCell]
      split
      · next h =>
        rw [List.pairwise_cons, List.pairwise_cons]
        refine ⟨fun c hc => ?_, hs⟩
        rcases List.mem_cons.1 hc with rfl | hc
        · exact h
        · exact Nat.lt_trans h (hs.1 c hc)
      · rw [List.pairwise_cons]
        refine ⟨fun c hc => ?_, ih (fun c hc => ha c (by simp [hc])) hs.2⟩
        rcases Memory.mem_insertCell.1 hc with rfl | hc
        · show d1 < a
          omega
        · exact hs.1 c hc
  · rcases Memory.mem_insertCell.1 hc with rfl | hc
    · exact hb
    · exact hm.2 c hc

/-- A write keeps the canonical form. -/
theorem Memory.wf_write {m : Memory} (hm : m.wf) (a : Nat) (b : Byte) : Memory.wf (m.write a b) := by
  have hf : Memory.wf (m.filter fun c => c.1 != a) :=
    ⟨hm.1.filter _, fun c hc => hm.2 c (List.mem_of_mem_filter hc)⟩
  unfold Memory.write
  split
  · exact hf
  · next hb => exact Memory.wf_insertCell hf hb (by simp)

/-- A write below a bound keeps every listed index below it. -/
theorem Memory.below_write {m : Memory} {n : Nat} (hm : m.below n) {a : Nat} (ha : a < n)
    (b : Byte) : Memory.below (m.write a b) n := by
  intro c hc
  unfold Memory.write at hc
  split at hc
  · exact hm c (List.mem_of_mem_filter hc)
  · rcases Memory.mem_insertCell.1 hc with rfl | hc
    · exact ha
    · exact hm c (List.mem_of_mem_filter hc)

/-- Writing a range of bytes keeps the canonical form. -/
theorem Memory.wf_writeBytes {m : Memory} (hm : m.wf) (lo : Nat) (bs : List Byte) :
    Memory.wf (m.writeBytes lo bs) := by
  induction bs generalizing m lo with
  | nil => exact hm
  | cons b bs ih => exact ih (Memory.wf_write hm lo b) (lo + 1)

/-- Writing a range of bytes below a bound keeps every listed index below it. -/
theorem Memory.below_writeBytes {m : Memory} {n : Nat} (hm : m.below n) (lo : Nat)
    (bs : List Byte) (h : bs = [] ∨ lo + bs.length ≤ n) : Memory.below (m.writeBytes lo bs) n := by
  induction bs generalizing m lo with
  | nil => exact hm
  | cons b bs ih =>
    have h' : lo + (bs.length + 1) ≤ n := by simpa using h
    refine ih (Memory.below_write hm (by omega) b) (lo + 1) ?_
    exact Or.inr (by omega)

/-- In a canonical array, a listed entry is what its index reads as. -/
theorem Memory.read_of_mem {m : Memory} (hm : m.wf) {c : Host.Cell} (hc : c ∈ m) :
    m.read c.1 = c.2 := by
  induction m with
  | nil => simp at hc
  | cons d m ih =>
    rcases List.mem_cons.1 hc with rfl | hc'
    · simp [Memory.read_cons]
    · have hlt : d.1 < c.1 := (List.pairwise_cons.1 hm.1).1 c hc'
      have hwf : Memory.wf m :=
        ⟨(List.pairwise_cons.1 hm.1).2, fun e he => hm.2 e (by simp [he])⟩
      rw [Memory.read_cons, if_neg (by omega), ih hwf hc']

end Sys2Proof.Machine
end

