-- ==== Sys2Proof/Laws/Ops.lean ====
section
/-! SUPPORT. One lemma for each shared operation, saying once everything it can do. -/

namespace Sys2Proof.Machine

/-! ## Fields after the shared updates -/

section

variable (s : State)

@[simp] theorem State.preIncrement_v :
    (s.preIncrement).v = s.v := rfl

@[simp] theorem State.preIncrement_i :
    (s.preIncrement).i = s.i := rfl

@[simp] theorem State.preIncrement_pc :
    (s.preIncrement).pc = s.pc + 2 := rfl

@[simp] theorem State.preIncrement_stack :
    (s.preIncrement).stack = s.stack := rfl

@[simp] theorem State.preIncrement_sp :
    (s.preIncrement).sp = s.sp := rfl

@[simp] theorem State.preIncrement_dt :
    (s.preIncrement).dt = s.dt := rfl

@[simp] theorem State.preIncrement_st :
    (s.preIncrement).st = s.st := rfl

@[simp] theorem State.preIncrement_mem :
    (s.preIncrement).mem = s.mem := rfl

@[simp] theorem State.preIncrement_disp :
    (s.preIncrement).disp = s.disp := rfl

@[simp] theorem State.preIncrement_key :
    (s.preIncrement).key = s.key := rfl

@[simp] theorem State.preIncrement_fault :
    (s.preIncrement).fault = s.fault := rfl

@[simp] theorem State.preIncrement_rndIn :
    (s.preIncrement).rndIn = s.rndIn := rfl

@[simp] theorem State.preIncrement_rndDrawn :
    (s.preIncrement).rndDrawn = s.rndDrawn := rfl

@[simp] theorem State.preIncrement_reg (r : Reg) :
    (s.preIncrement).reg r = s.reg r := rfl

@[simp] theorem State.undoPreIncrement_v :
    (s.undoPreIncrement).v = s.v := rfl

@[simp] theorem State.undoPreIncrement_i :
    (s.undoPreIncrement).i = s.i := rfl

@[simp] theorem State.undoPreIncrement_pc :
    (s.undoPreIncrement).pc = s.pc - 2 := rfl

@[simp] theorem State.undoPreIncrement_stack :
    (s.undoPreIncrement).stack = s.stack := rfl

@[simp] theorem State.undoPreIncrement_sp :
    (s.undoPreIncrement).sp = s.sp := rfl

@[simp] theorem State.undoPreIncrement_dt :
    (s.undoPreIncrement).dt = s.dt := rfl

@[simp] theorem State.undoPreIncrement_st :
    (s.undoPreIncrement).st = s.st := rfl

@[simp] theorem State.undoPreIncrement_mem :
    (s.undoPreIncrement).mem = s.mem := rfl

@[simp] theorem State.undoPreIncrement_disp :
    (s.undoPreIncrement).disp = s.disp := rfl

@[simp] theorem State.undoPreIncrement_key :
    (s.undoPreIncrement).key = s.key := rfl

@[simp] theorem State.undoPreIncrement_fault :
    (s.undoPreIncrement).fault = s.fault := rfl

@[simp] theorem State.undoPreIncrement_rndIn :
    (s.undoPreIncrement).rndIn = s.rndIn := rfl

@[simp] theorem State.undoPreIncrement_rndDrawn :
    (s.undoPreIncrement).rndDrawn = s.rndDrawn := rfl

@[simp] theorem State.undoPreIncrement_reg (r : Reg) :
    (s.undoPreIncrement).reg r = s.reg r := rfl

@[simp] theorem State.tick_v :
    (s.tick).v = s.v := rfl

@[simp] theorem State.tick_i :
    (s.tick).i = s.i := rfl

@[simp] theorem State.tick_pc :
    (s.tick).pc = s.pc := rfl

@[simp] theorem State.tick_stack :
    (s.tick).stack = s.stack := rfl

@[simp] theorem State.tick_sp :
    (s.tick).sp = s.sp := rfl

@[simp] theorem State.tick_dt :
    (s.tick).dt = tickTimer s.dt := rfl

@[simp] theorem State.tick_st :
    (s.tick).st = tickTimer s.st := rfl

@[simp] theorem State.tick_mem :
    (s.tick).mem = s.mem := rfl

@[simp] theorem State.tick_disp :
    (s.tick).disp = s.disp := rfl

@[simp] theorem State.tick_key :
    (s.tick).key = s.key := rfl

@[simp] theorem State.tick_fault :
    (s.tick).fault = s.fault := rfl

@[simp] theorem State.tick_rndIn :
    (s.tick).rndIn = s.rndIn := rfl

@[simp] theorem State.tick_rndDrawn :
    (s.tick).rndDrawn = s.rndDrawn := rfl

@[simp] theorem State.tick_reg (r : Reg) :
    (s.tick).reg r = s.reg r := rfl

@[simp] theorem State.storeBytes_v (lo : Nat) (bs : List Byte):
    (s.storeBytes lo bs).v = s.v := rfl

@[simp] theorem State.storeBytes_i (lo : Nat) (bs : List Byte):
    (s.storeBytes lo bs).i = s.i := rfl

@[simp] theorem State.storeBytes_pc (lo : Nat) (bs : List Byte):
    (s.storeBytes lo bs).pc = s.pc := rfl

@[simp] theorem State.storeBytes_stack (lo : Nat) (bs : List Byte):
    (s.storeBytes lo bs).stack = s.stack := rfl

@[simp] theorem State.storeBytes_sp (lo : Nat) (bs : List Byte):
    (s.storeBytes lo bs).sp = s.sp := rfl

@[simp] theorem State.storeBytes_dt (lo : Nat) (bs : List Byte):
    (s.storeBytes lo bs).dt = s.dt := rfl

@[simp] theorem State.storeBytes_st (lo : Nat) (bs : List Byte):
    (s.storeBytes lo bs).st = s.st := rfl

@[simp] theorem State.storeBytes_mem (lo : Nat) (bs : List Byte):
    (s.storeBytes lo bs).mem = s.mem.writeBytes lo bs := rfl

@[simp] theorem State.storeBytes_disp (lo : Nat) (bs : List Byte):
    (s.storeBytes lo bs).disp = s.disp := rfl

@[simp] theorem State.storeBytes_key (lo : Nat) (bs : List Byte):
    (s.storeBytes lo bs).key = s.key := rfl

@[simp] theorem State.storeBytes_fault (lo : Nat) (bs : List Byte):
    (s.storeBytes lo bs).fault = s.fault := rfl

@[simp] theorem State.storeBytes_rndIn (lo : Nat) (bs : List Byte):
    (s.storeBytes lo bs).rndIn = s.rndIn := rfl

@[simp] theorem State.storeBytes_rndDrawn (lo : Nat) (bs : List Byte):
    (s.storeBytes lo bs).rndDrawn = s.rndDrawn := rfl

@[simp] theorem State.storeBytes_reg (lo : Nat) (bs : List Byte) (r : Reg) :
    (s.storeBytes lo bs).reg r = s.reg r := rfl

@[simp] theorem State.skipIf_pc (c : Bool) :
    (s.skipIf c).pc = if c then s.pc + 2 else s.pc := by cases c <;> rfl

@[simp] theorem State.skipIf_v (c : Bool) : (s.skipIf c).v = s.v := by
  cases c <;> rfl

@[simp] theorem State.skipIf_i (c : Bool) : (s.skipIf c).i = s.i := by
  cases c <;> rfl

@[simp] theorem State.skipIf_stack (c : Bool) : (s.skipIf c).stack = s.stack := by
  cases c <;> rfl

@[simp] theorem State.skipIf_sp (c : Bool) : (s.skipIf c).sp = s.sp := by
  cases c <;> rfl

@[simp] theorem State.skipIf_dt (c : Bool) : (s.skipIf c).dt = s.dt := by
  cases c <;> rfl

@[simp] theorem State.skipIf_st (c : Bool) : (s.skipIf c).st = s.st := by
  cases c <;> rfl

@[simp] theorem State.skipIf_mem (c : Bool) : (s.skipIf c).mem = s.mem := by
  cases c <;> rfl

@[simp] theorem State.skipIf_disp (c : Bool) : (s.skipIf c).disp = s.disp := by
  cases c <;> rfl

@[simp] theorem State.skipIf_key (c : Bool) : (s.skipIf c).key = s.key := by
  cases c <;> rfl

@[simp] theorem State.skipIf_fault (c : Bool) : (s.skipIf c).fault = s.fault := by
  cases c <;> rfl

@[simp] theorem State.skipIf_rndIn (c : Bool) : (s.skipIf c).rndIn = s.rndIn := by
  cases c <;> rfl

@[simp] theorem State.skipIf_rndDrawn (c : Bool) : (s.skipIf c).rndDrawn = s.rndDrawn := by
  cases c <;> rfl

@[simp] theorem State.skipIf_reg (c : Bool) (r : Reg) : (s.skipIf c).reg r = s.reg r := by
  cases c <;> rfl

end

/-! ## Range checks -/

/-- A range of bytes is inside MEM, or empty. -/
theorem checkRange_none_iff {kind : AccessKind} {lo n : Nat} :
    checkRange kind lo n = none ↔ n = 0 ∨ lo + n ≤ 4096 := by
  unfold checkRange
  split
  · next h => simp only [Config.memLast] at h; simp; omega
  · next h => simp only [Config.memLast] at h; simp; omega

/-- A range that reaches above 4095 raises MemoryFault with its lowest such address (R43). -/
theorem checkRange_some_iff {kind : AccessKind} {lo n : Nat} {f : Fault} :
    checkRange kind lo n = some f ↔
      (0 < n ∧ 4096 < lo + n) ∧ f = .memoryFault kind (max lo 4096) := by
  unfold checkRange
  split
  · next h =>
    simp only [Config.memLast] at h
    have : 0 < n ∧ 4096 < lo + n := by omega
    simp [this, eq_comm]
  · next h =>
    simp only [Config.memLast] at h
    have : ¬(0 < n ∧ 4096 < lo + n) := by omega
    simp [this]

/-! ## Faults -/

@[simp] theorem State.undoPreIncrement_preIncrement (s : State) :
    s.preIncrement.undoPreIncrement = s := by
  simp [State.preIncrement, State.undoPreIncrement, State.setPc]

/-- A fault raised inside an instruction leaves the state the CYCLE began in, with FAULT set
(R166). -/
theorem raiseFault_preIncrement (f : Fault) (s : State) :
    raiseFault f s.preIncrement = .next (s.setFault f) := by
  simp [raiseFault, takeFault]

theorem raiseFault_eq (f : Fault) (s : State) :
    raiseFault f s = .next ((s.setPc (s.pc - 2)).setFault f) := rfl

/-- An access to a whole range goes on when the range is inside MEM or empty. -/
theorem guardRange_ok {kind : AccessKind} {lo n : Nat} (s t : State) (h : n = 0 ∨ lo + n ≤ 4096) :
    guardRange kind lo n s t = .next t := by
  rw [guardRange, checkRange_none_iff.2 h]

/-- An access to a range that reaches above 4095 takes MemoryFault (R43). -/
theorem guardRange_fault {kind : AccessKind} {lo n : Nat} (s t : State)
    (h : 0 < n ∧ 4096 < lo + n) :
    guardRange kind lo n s t = raiseFault (.memoryFault kind (max lo 4096)) s := by
  rw [guardRange, checkRange_some_iff.2 ⟨h, rfl⟩]

/-- The two things an access to a whole range can do. -/
theorem guardRange_cases (kind : AccessKind) (lo n : Nat) (s t : State) :
    ((n = 0 ∨ lo + n ≤ 4096) ∧ guardRange kind lo n s t = .next t) ∨
    ((0 < n ∧ 4096 < lo + n) ∧
      guardRange kind lo n s t = raiseFault (.memoryFault kind (max lo 4096)) s) := by
  by_cases h : n = 0 ∨ lo + n ≤ 4096
  · exact .inl ⟨h, guardRange_ok s t h⟩
  · exact .inr ⟨by omega, guardRange_fault s t (by omega)⟩

/-! ## The return stack -/

/-- A push writes STACK[SP] and raises SP, unless the stack is full (R92). -/
theorem State.pushReturn_of_lt (s : State) (a : Word) (h : s.sp.val < 16) :
    s.pushReturn a = some (s.setStack (s.stack.set s.sp.val a h) ⟨s.sp.val + 1, by omega⟩) := by
  simp [State.pushReturn, h]

theorem State.pushReturn_full (s : State) (a : Word) (h : s.sp.val = 16) :
    s.pushReturn a = none := by
  simp [State.pushReturn, h]

/-- A pop answers STACK[SP - 1] and lowers SP, unless the stack is empty (R90). -/
theorem State.popReturn_of_pos (s : State) (h : s.sp.val ≠ 0) :
    s.popReturn = some (s.stack[s.sp.val - 1]'(by omega),
      s.setStack s.stack ⟨s.sp.val - 1, by omega⟩) := by
  simp only [State.popReturn, dif_neg h]

theorem State.popReturn_empty (s : State) (h : s.sp.val = 0) : s.popReturn = none := by
  simp only [State.popReturn, dif_pos h]

/-! ## Skips -/

/-- A skip changes nothing but PC (R94). -/
theorem State.skipIf_eq (s : State) (c : Bool) :
    s.skipIf c = s.setPc (if c then s.pc + 2 else s.pc) := by
  cases c <;> rfl

/-! ## CYCLE -/

/-- A timer goes down by 1 and stops at 0 (R84). -/
theorem tickTimer_toNat (t : Byte) : (tickTimer t).toNat = t.toNat - 1 := by
  unfold tickTimer
  split
  · next h => simp [h]
  · next h => bv_omega

/-- A fetch answers the two bytes at PC when both are in MEM (R81). -/
theorem fetch_ok (s : State) (h : s.pc.toNat ≤ 4094) :
    fetch s = .ok (joinBytes (s.mem.read s.pc.toNat) (s.mem.read (s.pc.toNat + 1))) := by
  rw [fetch, checkRange_none_iff.2 (by omega)]

/-- A fetch that reaches above 4095 raises MemoryFault(fetch) (R81). -/
theorem fetch_fault (s : State) (h : 4094 < s.pc.toNat) :
    fetch s = .error (.memoryFault .fetch (max s.pc.toNat 4096)) := by
  rw [fetch, checkRange_some_iff.2 ⟨by omega, rfl⟩]

/-- With FAULT set, CYCLE changes nothing (R80). -/
theorem step_latched {s : State} {f : Fault} (h : s.fault = some f) : step s = .next s := by
  simp [step, h, stayFaulted]

/-- A CYCLE whose fetch faults (R81, R166). -/
theorem step_fetch_fault {s : State} (h : s.fault = none) (hp : 4094 < s.pc.toNat) :
    step s = .next (s.setFault (.memoryFault .fetch (max s.pc.toNat 4096))) := by
  simp [step, h, fetch_fault s hp, takeFault]

/-- A CYCLE that executes an instruction (R80). -/
theorem step_exec {s : State} (h : s.fault = none) (hp : s.pc.toNat ≤ 4094) :
    step s = endCycle (exec (decodeWord
      (joinBytes (s.mem.read s.pc.toNat) (s.mem.read (s.pc.toNat + 1)))) s.preIncrement) := by
  simp [step, h, fetch_ok s hp]

/-- Everything a CYCLE can do: stay faulted, take a fetch fault, or execute the one instruction the
two bytes at PC decode to and end the cycle (R80). -/
theorem step_cases (s : State) :
    ((∃ f, s.fault = some f) ∧ step s = .next s) ∨
    ((s.fault = none ∧ 4094 < s.pc.toNat) ∧
      step s = .next (s.setFault (.memoryFault .fetch (max s.pc.toNat 4096)))) ∨
    ((s.fault = none ∧ s.pc.toNat ≤ 4094) ∧ step s = endCycle (exec (decodeWord
      (joinBytes (s.mem.read s.pc.toNat) (s.mem.read (s.pc.toNat + 1)))) s.preIncrement)) := by
  cases h : s.fault with
  | some f => exact .inl ⟨⟨f, rfl⟩, step_latched h⟩
  | none =>
    by_cases hp : s.pc.toNat ≤ 4094
    · exact .inr (.inr ⟨⟨rfl, hp⟩, step_exec h hp⟩)
    · exact .inr (.inl ⟨⟨rfl, by omega⟩, step_fetch_fault h (by omega)⟩)

/-- The end of a cycle whose instruction did not fault: the timers tick (R84). -/
theorem endCycle_tick {t : State} (h : t.fault = none) : endCycle (.next t) = .next t.tick := by
  simp [endCycle, h]

/-- The end of a cycle whose instruction took a fault: nothing more happens (R80). -/
theorem endCycle_fault {t : State} (h : t.fault ≠ none) : endCycle (.next t) = .next t := by
  simp [endCycle, h]

end Sys2Proof.Machine
end

