-- ==== Sys2Proof/Laws/Display.lean ====
section
/-! SUPPORT. The XOR blit: which cells a sprite falls on, that it visits none twice, and what the
display reads as after it (spec/44_display.md R131). -/

namespace Sys2Proof.Machine

/-! ## Fields after a draw -/

section

variable (s : State) (vx vy : Byte) (rows : List Byte)

@[simp] theorem State.drawSprite_i :
    (s.drawSprite vx vy rows).i = s.i := rfl

@[simp] theorem State.drawSprite_pc :
    (s.drawSprite vx vy rows).pc = s.pc := rfl

@[simp] theorem State.drawSprite_stack :
    (s.drawSprite vx vy rows).stack = s.stack := rfl

@[simp] theorem State.drawSprite_sp :
    (s.drawSprite vx vy rows).sp = s.sp := rfl

@[simp] theorem State.drawSprite_dt :
    (s.drawSprite vx vy rows).dt = s.dt := rfl

@[simp] theorem State.drawSprite_st :
    (s.drawSprite vx vy rows).st = s.st := rfl

@[simp] theorem State.drawSprite_mem :
    (s.drawSprite vx vy rows).mem = s.mem := rfl

@[simp] theorem State.drawSprite_key :
    (s.drawSprite vx vy rows).key = s.key := rfl

@[simp] theorem State.drawSprite_fault :
    (s.drawSprite vx vy rows).fault = s.fault := rfl

@[simp] theorem State.drawSprite_rndIn :
    (s.drawSprite vx vy rows).rndIn = s.rndIn := rfl

@[simp] theorem State.drawSprite_rndDrawn :
    (s.drawSprite vx vy rows).rndDrawn = s.rndDrawn := rfl

@[simp] theorem State.drawSprite_disp : (s.drawSprite vx vy rows).disp =
    (blit (spriteCells (vx.toNat % 64) (vy.toNat % 32) 0 rows) s.disp false).1 := rfl

@[simp] theorem State.drawSprite_reg_flag : (s.drawSprite vx vy rows).reg 15 =
    flagByte (blit (spriteCells (vx.toNat % 64) (vy.toNat % 32) 0 rows) s.disp false).2 := by
  simp [State.drawSprite]

theorem State.drawSprite_reg_other {r : Reg} (h : r ≠ 15) :
    (s.drawSprite vx vy rows).reg r = s.reg r := by
  rw [State.drawSprite, State.setReg_reg_of_ne _ _ h, State.setDisp_reg]

end

/-! ## One toggle -/

theorem Memory.read_toggle (d : Memory) (k k' : Nat) :
    (d.toggle k).read k' = if k = k' then d.read k ^^^ 0xFF else d.read k' := by
  simp [Memory.toggle, Memory.read_write]

theorem Memory.wf_toggle {d : Memory} (h : d.wf) (k : Nat) : Memory.wf (d.toggle k) :=
  Memory.wf_write h _ _

theorem Memory.below_toggle {d : Memory} {n k : Nat} (h : d.below n) (hk : k < n) :
    Memory.below (d.toggle k) n := Memory.below_write h hk _

/-! ## The blit -/

/-- The blit keeps the canonical form. -/
theorem blit_wf (ks : List Nat) {d : Memory} (h : d.wf) (c : Bool) :
    Memory.wf (blit ks d c).1 := by
  induction ks generalizing d c with
  | nil => exact h
  | cons k ks ih => exact ih (Memory.wf_toggle h k) _

/-- The blit of cells below a bound keeps every listed cell below it. -/
theorem blit_below (ks : List Nat) {d : Memory} {n : Nat} (h : d.below n)
    (hk : ∀ k ∈ ks, k < n) (c : Bool) : Memory.below (blit ks d c).1 n := by
  induction ks generalizing d c with
  | nil => exact h
  | cons k ks ih =>
    exact ih (Memory.below_toggle h (hk k (by simp))) (fun j hj => hk j (by simp [hj])) _

/-- The blit keeps every cell at 0x00 or 0xFF (R132). -/
theorem blit_on_off (ks : List Nat) {d : Memory} (h : ∀ k, d.read k = 0x00 ∨ d.read k = 0xFF)
    (c : Bool) (k : Nat) : (blit ks d c).1.read k = 0x00 ∨ (blit ks d c).1.read k = 0xFF := by
  induction ks generalizing d c with
  | nil => exact h k
  | cons j ks ih =>
    refine ih (fun k => ?_) _
    rw [Memory.read_toggle]
    split
    · rcases h j with h | h <;> rw [h] <;> decide
    · exact h k

/-- When no cell comes twice, the blit toggles exactly the cells it is given. -/
theorem blit_read {ks : List Nat} (hn : ks.Nodup) (d : Memory) (c : Bool) (k : Nat) :
    (blit ks d c).1.read k = if k ∈ ks then d.read k ^^^ 0xFF else d.read k := by
  induction ks generalizing d c with
  | nil => simp [blit]
  | cons j ks ih =>
    rw [List.nodup_cons] at hn
    rw [blit, ih hn.2, Memory.read_toggle]
    by_cases hk : k ∈ ks
    · have : j ≠ k := fun e => hn.1 (e ▸ hk)
      simp [hk, this]
    · by_cases hj : j = k
      · subst hj; simp [hn.1]
      · have : k ≠ j := fun e => hj e.symm
        simp [hk, hj, this]

/-- When no cell comes twice, the collision bit says whether a cell given was on before. -/
theorem blit_collided {ks : List Nat} (hn : ks.Nodup) (d : Memory) (c : Bool) :
    (blit ks d c).2 = true ↔ c = true ∨ ∃ k ∈ ks, d.read k ≠ 0x00 := by
  induction ks generalizing d c with
  | nil => simp [blit]
  | cons j ks ih =>
    rw [List.nodup_cons] at hn
    rw [blit, ih hn.2]
    have hread : ∀ k ∈ ks, (d.toggle j).read k = d.read k := fun k hk => by
      have : j ≠ k := fun e => hn.1 (e ▸ hk)
      simp [Memory.read_toggle, this]
    constructor
    · rintro (h | ⟨k, hk, h⟩)
      · rcases Bool.or_eq_true _ _ |>.mp h with h | h
        · exact .inl h
        · exact .inr ⟨j, by simp, by simpa using h⟩
      · exact .inr ⟨k, by simp [hk], by rwa [hread k hk] at h⟩
    · rintro (h | ⟨k, hk, h⟩)
      · exact .inl (by simp [h])
      · rcases List.mem_cons.1 hk with rfl | hk
        · exact .inl (Bool.or_eq_true _ _ |>.mpr (.inr (by simpa using h)))
        · exact .inr ⟨k, hk, by rwa [hread k hk]⟩

/-! ## The cells of a sprite -/

/-- The cells of one sprite row: those of the set bits, bit 7 first. -/
theorem mem_rowCells {x0 py : Nat} {b : Byte} {k : Nat} :
    k ∈ rowCells x0 py b ↔
      ∃ c, c < 8 ∧ b.getLsbD (7 - c) = true ∧ k = py * 64 + (x0 + c) % 64 := by
  simp only [rowCells, cellIndex, Config.dispW, List.mem_map, List.mem_filter, List.mem_range]
  constructor
  · rintro ⟨c, ⟨hc, hb⟩, rfl⟩
    exact ⟨c, hc, hb, rfl⟩
  · rintro ⟨c, hc, hb, rfl⟩
    exact ⟨c, ⟨hc, hb⟩, rfl⟩

/-- The cells of a sprite: those of the set bits of each of its rows. -/
theorem mem_spriteCells {x0 y0 r k : Nat} {rows : List Byte} :
    k ∈ spriteCells x0 y0 r rows ↔
      ∃ j, ∃ h : j < rows.length, ∃ c, c < 8 ∧ rows[j].getLsbD (7 - c) = true ∧
        k = ((y0 + (r + j)) % 32) * 64 + (x0 + c) % 64 := by
  induction rows generalizing r with
  | nil => simp [spriteCells]
  | cons b bs ih =>
    rw [spriteCells, List.mem_append, mem_rowCells, ih]
    constructor
    · rintro (⟨c, hc, hb, rfl⟩ | ⟨j, hj, c, hc, hb, rfl⟩)
      · exact ⟨0, by simp, c, hc, hb, rfl⟩
      · exact ⟨j + 1, by simpa using hj, c, hc, hb, by rw [Nat.add_assoc, Nat.add_comm 1 j]⟩
    · rintro ⟨j, hj, c, hc, hb, rfl⟩
      cases j with
      | zero => exact .inl ⟨c, hc, hb, rfl⟩
      | succ j =>
        exact .inr ⟨j, by simpa using hj, c, hc, hb, by rw [Nat.add_assoc, Nat.add_comm 1 j]⟩

/-- Every cell of a sprite is a cell of the display. -/
theorem spriteCells_lt {x0 y0 r k : Nat} {rows : List Byte} (h : k ∈ spriteCells x0 y0 r rows) :
    k < 2048 := by
  obtain ⟨j, hj, c, hc, hb, rfl⟩ := mem_spriteCells.1 h
  omega

theorem nodup_rowCells (x0 py : Nat) (b : Byte) : (rowCells x0 py b).Nodup := by
  unfold rowCells
  refine List.Nodup.map_on ?_ (List.nodup_range.filter _)
  intro c hc c' hc' h
  simp only [List.mem_filter, List.mem_range] at hc hc'
  simp only [cellIndex, Config.dispW] at h
  omega

/-- A sprite of at most 32 rows visits no cell twice (R131). -/
theorem nodup_spriteCells (x0 y0 r : Nat) (rows : List Byte) (h : rows.length ≤ 32) :
    (spriteCells x0 y0 r rows).Nodup := by
  induction rows generalizing r with
  | nil => simp [spriteCells]
  | cons b bs ih =>
    rw [List.length_cons] at h
    rw [spriteCells, List.nodup_append]
    refine ⟨nodup_rowCells _ _ _, ih (r + 1) (by omega), ?_⟩
    rintro k hk k' hk' rfl
    obtain ⟨c, hc, -, rfl⟩ := mem_rowCells.1 hk
    obtain ⟨j, hj, c', hc', -, e⟩ := mem_spriteCells.1 hk'
    simp only [Config.dispH] at e
    omega

end Sys2Proof.Machine
end

