-- ==== Sys2Proof/Laws/HostOps.lean ====
section
/-! SUPPORT. What the transaction CYCLE can do, said once (spec/40_cycle.md R80; log 23): a step on the
state with its random byte, the host's other random bytes put back, the latch as the reply. -/

namespace Sys2Proof.Machine

/-- A CYCLE with its byte is a step with that byte, and nothing else. -/
theorem cycle_cases {b : Byte} {s t : State} (h : cycle b s = .next t) :
    ∃ u, step { s with rndIn := [b] } = .next u ∧ t = { u with rndIn := s.rndIn } := by
  unfold cycle at h
  split at h
  · next u hu => cases h; exact ⟨u, hu, rfl⟩
  all_goals cases h

/-- The transaction CYCLE: the next state is that of the step, the reply its latch. -/
theorem transact_cycle_cases {b : Byte} {s t : State} {r : Reply}
    (h : transact (.cycle b) s = .next (t, r)) :
    ∃ u, step { s with rndIn := [b] } = .next u ∧ t = { u with rndIn := s.rndIn } ∧
      r = .cycled u.fault := by
  simp only [transact] at h
  split at h
  · next v hv =>
    cases h
    obtain ⟨u, hu, rfl⟩ := cycle_cases hv
    exact ⟨u, hu, rfl, rfl⟩
  all_goals cases h

/-- A transaction that is neither RESET nor CYCLE writes MEM and KEY at most (R56, R187). -/
theorem transact_quiet_cases {e : HostEvent} {s t : State} {r : Reply} (hr : e ≠ .reset)
    (hc : ∀ b, e ≠ .cycle b) (h : transact e s = .next (t, r)) :
    t = { s with mem := t.mem, key := t.key } := by
  cases e
  case reset => exact absurd rfl hr
  case cycle b => exact absurd rfl (hc b)
  all_goals (cases h; rfl)

end Sys2Proof.Machine
end

