-- ==== Sys2Proof/Laws/PerInstr.lean ====
section
/-! SUPPORT. One fact about every instruction as syntax: of all rows of the opcode map its opcode
selects first the one its pattern names, and NULL's selects none (spec/30_encoding.md R65, R66). -/

namespace Sys2Proof.Laws

/-- The row of the opcode map that the opcode of a well-formed instruction selects is that of its
pattern. -/
def EncodingInRow.Statement (i : Instr) : Prop :=
  i.wellFormed = true → rowName (encode i) = i.pattern

/-- Every row's mask covers the class (R65). -/
theorem opcodeRows_mask_class : ∀ r ∈ opcodeRows, fieldClass r.mask = 0xF := by decide

/-- Only the rows of its own class can be the one an opcode selects. -/
theorem rowName_of_class {w : Word} {c : Nibble} {rows : List OpcodeRow}
    (hrows : opcodeRows.filter (fun r => fieldClass r.pat == c) = rows) (hw : fieldClass w = c) :
    rowName w = ((rows.find? (fun r => r.selects w)).map OpcodeRow.name).getD "NULL" := by
  have h : rows.find? (fun r => r.selects w) = opcodeRows.find? (fun r => r.selects w) := by
    rw [← hrows, List.find?_filter]
    refine List.find?_congr fun r hr => ?_
    by_cases hs : r.selects w = true
    · have hp : w &&& r.mask = r.pat := by simpa [OpcodeRow.selects] using hs
      simp [hs, ← hp, fieldClass_and (opcodeRows_mask_class r hr), hw]
    · simp [hs]
  rw [h, rowName]
  cases opcodeRows.find? (fun r => r.selects w) <;> rfl

theorem EncodingInRow.cls : EncodingInRow.Statement .cls := fun _ => by decide

theorem EncodingInRow.ret : EncodingInRow.Statement .ret := fun _ => by decide

theorem EncodingInRow.jp (nnn : Addr12) : EncodingInRow.Statement (.jp nnn) := by
  intro _
  rw [rowName_of_class (c := 0x1) (rows := [⟨"1NNN", 0xF000, 0x1000⟩])
    (by decide) (by simp [encode])]
  simp [selects_class, encode, Instr.pattern]
  rfl

theorem EncodingInRow.call (nnn : Addr12) : EncodingInRow.Statement (.call nnn) := by
  intro _
  rw [rowName_of_class (c := 0x2) (rows := [⟨"2NNN", 0xF000, 0x2000⟩])
    (by decide) (by simp [encode])]
  simp [selects_class, encode, Instr.pattern]
  rfl

theorem EncodingInRow.seImm (x : Reg) (kk : Byte) : EncodingInRow.Statement (.seImm x kk) := by
  intro _
  rw [rowName_of_class (c := 0x3) (rows := [⟨"3XKK", 0xF000, 0x3000⟩])
    (by decide) (by simp [encode])]
  simp [selects_class, encode, Instr.pattern]
  rfl

theorem EncodingInRow.sneImm (x : Reg) (kk : Byte) : EncodingInRow.Statement (.sneImm x kk) := by
  intro _
  rw [rowName_of_class (c := 0x4) (rows := [⟨"4XKK", 0xF000, 0x4000⟩])
    (by decide) (by simp [encode])]
  simp [selects_class, encode, Instr.pattern]
  rfl

theorem EncodingInRow.seReg (x y : Reg) : EncodingInRow.Statement (.seReg x y) := by
  intro _
  rw [rowName_of_class (c := 0x5) (rows := [⟨"5XY0", 0xF00F, 0x5000⟩])
    (by decide) (by simp [encode])]
  simp [selects_class_n, encode, Instr.pattern]
  rfl

theorem EncodingInRow.ldImm (x : Reg) (kk : Byte) : EncodingInRow.Statement (.ldImm x kk) := by
  intro _
  rw [rowName_of_class (c := 0x6) (rows := [⟨"6XKK", 0xF000, 0x6000⟩])
    (by decide) (by simp [encode])]
  simp [selects_class, encode, Instr.pattern]
  rfl

theorem EncodingInRow.addImm (x : Reg) (kk : Byte) : EncodingInRow.Statement (.addImm x kk) := by
  intro _
  rw [rowName_of_class (c := 0x7) (rows := [⟨"7XKK", 0xF000, 0x7000⟩])
    (by decide) (by simp [encode])]
  simp [selects_class, encode, Instr.pattern]
  rfl

theorem EncodingInRow.ldReg (x y : Reg) : EncodingInRow.Statement (.ldReg x y) := by
  intro _
  rw [rowName_of_class (c := 0x8) (rows := opcodeRows8)
    (by decide) (by simp [encode])]
  simp [opcodeRows8, List.find?_cons, selects_class_n, encode, Instr.pattern]
  rfl

theorem EncodingInRow.orReg (x y : Reg) : EncodingInRow.Statement (.orReg x y) := by
  intro _
  rw [rowName_of_class (c := 0x8) (rows := opcodeRows8)
    (by decide) (by simp [encode])]
  simp [opcodeRows8, List.find?_cons, selects_class_n, encode, Instr.pattern]
  rfl

theorem EncodingInRow.andReg (x y : Reg) : EncodingInRow.Statement (.andReg x y) := by
  intro _
  rw [rowName_of_class (c := 0x8) (rows := opcodeRows8)
    (by decide) (by simp [encode])]
  simp [opcodeRows8, List.find?_cons, selects_class_n, encode, Instr.pattern]
  rfl

theorem EncodingInRow.xorReg (x y : Reg) : EncodingInRow.Statement (.xorReg x y) := by
  intro _
  rw [rowName_of_class (c := 0x8) (rows := opcodeRows8)
    (by decide) (by simp [encode])]
  simp [opcodeRows8, List.find?_cons, selects_class_n, encode, Instr.pattern]
  rfl

theorem EncodingInRow.addReg (x y : Reg) : EncodingInRow.Statement (.addReg x y) := by
  intro _
  rw [rowName_of_class (c := 0x8) (rows := opcodeRows8)
    (by decide) (by simp [encode])]
  simp [opcodeRows8, List.find?_cons, selects_class_n, encode, Instr.pattern]
  rfl

theorem EncodingInRow.subReg (x y : Reg) : EncodingInRow.Statement (.subReg x y) := by
  intro _
  rw [rowName_of_class (c := 0x8) (rows := opcodeRows8)
    (by decide) (by simp [encode])]
  simp [opcodeRows8, List.find?_cons, selects_class_n, encode, Instr.pattern]
  rfl

theorem EncodingInRow.shr (x y : Reg) : EncodingInRow.Statement (.shr x y) := by
  intro _
  rw [rowName_of_class (c := 0x8) (rows := opcodeRows8)
    (by decide) (by simp [encode])]
  simp [opcodeRows8, List.find?_cons, selects_class_n, encode, Instr.pattern]
  rfl

theorem EncodingInRow.subnReg (x y : Reg) : EncodingInRow.Statement (.subnReg x y) := by
  intro _
  rw [rowName_of_class (c := 0x8) (rows := opcodeRows8)
    (by decide) (by simp [encode])]
  simp [opcodeRows8, List.find?_cons, selects_class_n, encode, Instr.pattern]
  rfl

theorem EncodingInRow.shl (x y : Reg) : EncodingInRow.Statement (.shl x y) := by
  intro _
  rw [rowName_of_class (c := 0x8) (rows := opcodeRows8)
    (by decide) (by simp [encode])]
  simp [opcodeRows8, List.find?_cons, selects_class_n, encode, Instr.pattern]
  rfl

theorem EncodingInRow.sneReg (x y : Reg) : EncodingInRow.Statement (.sneReg x y) := by
  intro _
  rw [rowName_of_class (c := 0x9) (rows := [⟨"9XY0", 0xF00F, 0x9000⟩])
    (by decide) (by simp [encode])]
  simp [selects_class_n, encode, Instr.pattern]
  rfl

theorem EncodingInRow.ldI (nnn : Addr12) : EncodingInRow.Statement (.ldI nnn) := by
  intro _
  rw [rowName_of_class (c := 0xA) (rows := [⟨"ANNN", 0xF000, 0xA000⟩])
    (by decide) (by simp [encode])]
  simp [selects_class, encode, Instr.pattern]
  rfl

theorem EncodingInRow.jpV0 (nnn : Addr12) : EncodingInRow.Statement (.jpV0 nnn) := by
  intro _
  rw [rowName_of_class (c := 0xB) (rows := [⟨"BNNN", 0xF000, 0xB000⟩])
    (by decide) (by simp [encode])]
  simp [selects_class, encode, Instr.pattern]
  rfl

theorem EncodingInRow.rnd (x : Reg) (kk : Byte) : EncodingInRow.Statement (.rnd x kk) := by
  intro _
  rw [rowName_of_class (c := 0xC) (rows := [⟨"CXKK", 0xF000, 0xC000⟩])
    (by decide) (by simp [encode])]
  simp [selects_class, encode, Instr.pattern]
  rfl

theorem EncodingInRow.drw (x y : Reg) (n : Nibble) : EncodingInRow.Statement (.drw x y n) := by
  intro _
  rw [rowName_of_class (c := 0xD) (rows := [⟨"DXYN", 0xF000, 0xD000⟩])
    (by decide) (by simp [encode])]
  simp [selects_class, encode, Instr.pattern]
  rfl

theorem EncodingInRow.skp (x : Reg) : EncodingInRow.Statement (.skp x) := by
  intro _
  rw [rowName_of_class (c := 0xE) (rows := [⟨"EX9E", 0xF0FF, 0xE09E⟩, ⟨"EXA1", 0xF0FF, 0xE0A1⟩])
    (by decide) (by simp [encode])]
  simp [List.find?_cons, selects_class_kk, encode, Instr.pattern]
  rfl

theorem EncodingInRow.sknp (x : Reg) : EncodingInRow.Statement (.sknp x) := by
  intro _
  rw [rowName_of_class (c := 0xE) (rows := [⟨"EX9E", 0xF0FF, 0xE09E⟩, ⟨"EXA1", 0xF0FF, 0xE0A1⟩])
    (by decide) (by simp [encode])]
  simp [List.find?_cons, selects_class_kk, encode, Instr.pattern]
  rfl

theorem EncodingInRow.ldVxDt (x : Reg) : EncodingInRow.Statement (.ldVxDt x) := by
  intro _
  rw [rowName_of_class (c := 0xF) (rows := opcodeRowsF)
    (by decide) (by simp [encode])]
  simp [opcodeRowsF, List.find?_cons, selects_class_kk, encode, Instr.pattern]
  rfl

theorem EncodingInRow.ldVxK (x : Reg) : EncodingInRow.Statement (.ldVxK x) := by
  intro _
  rw [rowName_of_class (c := 0xF) (rows := opcodeRowsF)
    (by decide) (by simp [encode])]
  simp [opcodeRowsF, List.find?_cons, selects_class_kk, encode, Instr.pattern]
  rfl

theorem EncodingInRow.ldDtVx (x : Reg) : EncodingInRow.Statement (.ldDtVx x) := by
  intro _
  rw [rowName_of_class (c := 0xF) (rows := opcodeRowsF)
    (by decide) (by simp [encode])]
  simp [opcodeRowsF, List.find?_cons, selects_class_kk, encode, Instr.pattern]
  rfl

theorem EncodingInRow.ldStVx (x : Reg) : EncodingInRow.Statement (.ldStVx x) := by
  intro _
  rw [rowName_of_class (c := 0xF) (rows := opcodeRowsF)
    (by decide) (by simp [encode])]
  simp [opcodeRowsF, List.find?_cons, selects_class_kk, encode, Instr.pattern]
  rfl

theorem EncodingInRow.addI (x : Reg) : EncodingInRow.Statement (.addI x) := by
  intro _
  rw [rowName_of_class (c := 0xF) (rows := opcodeRowsF)
    (by decide) (by simp [encode])]
  simp [opcodeRowsF, List.find?_cons, selects_class_kk, encode, Instr.pattern]
  rfl

theorem EncodingInRow.ldF (x : Reg) : EncodingInRow.Statement (.ldF x) := by
  intro _
  rw [rowName_of_class (c := 0xF) (rows := opcodeRowsF)
    (by decide) (by simp [encode])]
  simp [opcodeRowsF, List.find?_cons, selects_class_kk, encode, Instr.pattern]
  rfl

theorem EncodingInRow.ldB (x : Reg) : EncodingInRow.Statement (.ldB x) := by
  intro _
  rw [rowName_of_class (c := 0xF) (rows := opcodeRowsF)
    (by decide) (by simp [encode])]
  simp [opcodeRowsF, List.find?_cons, selects_class_kk, encode, Instr.pattern]
  rfl

theorem EncodingInRow.stRegs (x : Reg) : EncodingInRow.Statement (.stRegs x) := by
  intro _
  rw [rowName_of_class (c := 0xF) (rows := opcodeRowsF)
    (by decide) (by simp [encode])]
  simp [opcodeRowsF, List.find?_cons, selects_class_kk, encode, Instr.pattern]
  rfl

theorem EncodingInRow.ldRegs (x : Reg) : EncodingInRow.Statement (.ldRegs x) := by
  intro _
  rw [rowName_of_class (c := 0xF) (rows := opcodeRowsF)
    (by decide) (by simp [encode])]
  simp [opcodeRowsF, List.find?_cons, selects_class_kk, encode, Instr.pattern]
  rfl

/-- No row has an opcode of the NULL space (R66). -/
theorem EncodingInRow.null (w : Word) : EncodingInRow.Statement (.null w) := by
  intro hw
  change isNullWord w = true at hw
  show rowName w = "NULL"
  have hc : ∀ c : Nibble, w.toNat / 4096 = c.toNat → fieldClass w = c := fun c h =>
    BitVec.eq_of_toNat_eq (by rw [fieldClass_toNat, h])
  have hn : ∀ m : Nibble, fieldN w = m ↔ w.toNat % 16 = m.toNat := fun m => by
    rw [← fieldN_toNat, BitVec.toNat_inj]
  have hk : ∀ m : Byte, fieldKK w = m ↔ w.toNat % 256 = m.toNat := fun m => by
    rw [← fieldKK_toNat, BitVec.toNat_inj]
  unfold isNullWord at hw
  split at hw
  · next h =>
    rw [rowName_of_class (c := 0x0) (rows := [⟨"00E0", 0xFFFF, 0x00E0⟩, ⟨"00EE", 0xFFFF, 0x00EE⟩])
      (by decide) (hc 0x0 h)]
    simp [List.find?_cons, selects_word] at hw ⊢
    simp [hw]
  · next h =>
    rw [rowName_of_class (c := 0x5) (rows := [⟨"5XY0", 0xF00F, 0x5000⟩]) (by decide) (hc 0x5 h)]
    simp [selects_class_n, hn, fieldN_toNat] at hw ⊢
    simp [hw]
  · next h =>
    rw [rowName_of_class (c := 0x8) (rows := opcodeRows8) (by decide) (hc 0x8 h)]
    simp [opcodeRows8, List.find?_cons, selects_class_n, hn, fieldN_toNat] at hw ⊢
    rcases hw with hw | hw | hw | hw | hw | hw | hw <;> simp [hw]
  · next h =>
    rw [rowName_of_class (c := 0x9) (rows := [⟨"9XY0", 0xF00F, 0x9000⟩]) (by decide) (hc 0x9 h)]
    simp [selects_class_n, hn, fieldN_toNat] at hw ⊢
    simp [hw]
  · next h =>
    rw [rowName_of_class (c := 0xE) (rows := [⟨"EX9E", 0xF0FF, 0xE09E⟩, ⟨"EXA1", 0xF0FF, 0xE0A1⟩])
      (by decide) (hc 0xE h)]
    simp [List.find?_cons, selects_class_kk, hk, fieldKK_toNat] at hw ⊢
    simp [hw]
  · next h =>
    rw [rowName_of_class (c := 0xF) (rows := opcodeRowsF) (by decide) (hc 0xF h)]
    simp [opcodeRowsF, List.find?_cons, selects_class_kk, hk, fieldKK_toNat] at hw ⊢
    simp [hw]
  · exact absurd hw (by simp)

end Sys2Proof.Laws
end

