-- ==== Sys2Proof/Tests/Slice0.lean ====
section
/-! SUPPORT. Tests and witnesses.  Expected results are the spec's own: its opcode map and NULL table
(spec/30_encoding.md R65, R66) and its test vectors (spec/95_test_vectors.md; the vector's id stands
in each docstring).  The witnesses show, for each statement with hypotheses, a state and operands
that meet them. -/

open Sys2Proof Sys2Proof.Machine

namespace Sys2Proof.Tests

/-! ## Small states -/

/-- The reset state with the listed registers, I and memory bytes, and the opcode at PC. -/
def start (w : Nat) (regs : List (Reg × Byte)) (i : Word) (bytes : List (Nat × Byte)) : State :=
  let s := regs.foldl (fun s p => s.setReg p.1 p.2) (State.reset.setI i)
  (s.setMem (bytes.foldl (fun m p => m.write p.1 p.2) [])).withFetchWord 16 w

/-- The state after one CYCLE. -/
def after (s : State) : State :=
  match step s with
  | .next t => t
  | .fault _ => State.reset
  | .refused _ => State.reset

/-- The state with one key down. -/
def keyDown (k : Fin 16) (s : State) : State := s.setKey (s.key.set k.val true)

/-- The state with one display cell on. -/
def pixelOn (x y : Nat) (s : State) : State := s.setDisp (s.disp.write (y * 64 + x) 0xFF)

/-- The state with `n` entries on the stack, all of them `a`. -/
def calls (n : Fin 17) (a : Word) (s : State) : State := s.setStack (Vector.replicate 16 a) n

/-! ## WellFormed: NULL is refused for every word that is an instruction (R65, R66) -/

theorem test_wellFormed_class_0 :
    (Instr.null 0x00E0).wellFormed = false ∧ (Instr.null 0x00EE).wellFormed = false ∧
      (Instr.null 0x00E1).wellFormed = true := by decide

theorem test_wellFormed_class_5 :
    (Instr.null 0x5AB0).wellFormed = false ∧ (Instr.null 0x5AB1).wellFormed = true := by decide

theorem test_wellFormed_class_8 :
    (Instr.null 0x8AB7).wellFormed = false ∧ (Instr.null 0x8ABE).wellFormed = false ∧
      (Instr.null 0x8AB8).wellFormed = true := by decide

theorem test_wellFormed_class_9 :
    (Instr.null 0x9AB0).wellFormed = false ∧ (Instr.null 0x9AB5).wellFormed = true := by decide

theorem test_wellFormed_class_E :
    (Instr.null 0xE39E).wellFormed = false ∧ (Instr.null 0xE3A1).wellFormed = false ∧
      (Instr.null 0xE30E).wellFormed = true := by decide

theorem test_wellFormed_class_F :
    (Instr.null 0xF555).wellFormed = false ∧ (Instr.null 0xF575).wellFormed = true := by decide

theorem test_wellFormed_other_classes :
    (Instr.null 0x1234).wellFormed = false ∧ (Instr.null 0xD000).wellFormed = false := by decide

/-! ## Decoding: a word written out from the pattern of every row (R61, R65) -/

theorem test_decode_control_flow :
    decodeTableWord 16 0x00EE = some .ret ∧ decodeTableWord 16 0x1ABC = some (.jp 0xABC) ∧
      decodeTableWord 16 0x2DEF = some (.call 0xDEF) ∧
      decodeTableWord 16 0x3A7F = some (.seImm 0xA 0x7F) ∧
      decodeTableWord 16 0x4B80 = some (.sneImm 0xB 0x80) ∧
      decodeTableWord 16 0x5AB0 = some (.seReg 0xA 0xB) ∧
      decodeTableWord 16 0x9CD0 = some (.sneReg 0xC 0xD) ∧
      decodeTableWord 16 0xB123 = some (.jpV0 0x123) := by decide

theorem test_decode_load_add :
    decodeTableWord 16 0x6AFF = some (.ldImm 0xA 0xFF) ∧
      decodeTableWord 16 0x7102 = some (.addImm 0x1 0x02) ∧
      decodeTableWord 16 0xC30F = some (.rnd 0x3 0x0F) := by decide

theorem test_decode_class_8 :
    decodeTableWord 16 0x8AB0 = some (.ldReg 0xA 0xB) ∧
      decodeTableWord 16 0x8AB1 = some (.orReg 0xA 0xB) ∧
      decodeTableWord 16 0x8AB2 = some (.andReg 0xA 0xB) ∧
      decodeTableWord 16 0x8AB3 = some (.xorReg 0xA 0xB) ∧
      decodeTableWord 16 0x8AB4 = some (.addReg 0xA 0xB) ∧
      decodeTableWord 16 0x8AB5 = some (.subReg 0xA 0xB) ∧
      decodeTableWord 16 0x8AB6 = some (.shr 0xA 0xB) ∧
      decodeTableWord 16 0x8AB7 = some (.subnReg 0xA 0xB) ∧
      decodeTableWord 16 0x8ABE = some (.shl 0xA 0xB) := by decide

theorem test_decode_display_keys :
    decodeTableWord 16 0x00E0 = some .cls ∧ decodeTableWord 16 0xDAB5 = some (.drw 0xA 0xB 5) ∧
      decodeTableWord 16 0xE39E = some (.skp 3) ∧
      decodeTableWord 16 0xE3A1 = some (.sknp 3) := by decide

theorem test_decode_index_class_F :
    decodeTableWord 16 0xA123 = some (.ldI 0x123) ∧
      decodeTableWord 16 0xF507 = some (.ldVxDt 5) ∧
      decodeTableWord 16 0xF50A = some (.ldVxK 5) ∧
      decodeTableWord 16 0xF515 = some (.ldDtVx 5) ∧
      decodeTableWord 16 0xF518 = some (.ldStVx 5) ∧
      decodeTableWord 16 0xF51E = some (.addI 5) ∧
      decodeTableWord 16 0xF529 = some (.ldF 5) ∧
      decodeTableWord 16 0xF533 = some (.ldB 5) ∧
      decodeTableWord 16 0xF555 = some (.stRegs 5) ∧
      decodeTableWord 16 0xF565 = some (.ldRegs 5) := by decide

/-- The words the spot checks of 95_test_vectors.md give as NULL. -/
theorem test_decode_null :
    [0x00E1, 0x01E0, 0x0EE0, 0x00FE, 0x5AB1, 0x5ABF, 0x8AB8, 0x8ABD, 0x8ABF, 0x9AB5, 0xE30E, 0xE3AE,
      0xE391, 0xF505, 0xF575, 0xF585, 0xF51A, 0xF530].all
      (fun w => decodeWord w == .null w) = true := by decide

/-- The first byte of an instruction is the high one, and one byte alone is refused by name (R60). -/
theorem test_decode_bytes :
    decode [0xA1, 0x23, 0x77] = .ok (.ldI 0x123, [0x77]) ∧
      decode [0xA1] = .error .truncated ∧ encodeBytes (.drw 1 2 3) = [0xD1, 0x23] := by
  refine ⟨rfl, rfl, rfl⟩

/-! ## One CYCLE: vectors of 95_test_vectors.md -/

/-- CY1, CY4. -/
theorem test_null :
    (let t := after ((start 0x0000 [] 0 []).setDt 9); t.pc = 0x202 ∧ t.dt = 8) ∧
      (after (start 0x5121 [(1, 7), (2, 7)] 0 [])).pc = 0x202 := by decide

/-- CY12, CY13. -/
theorem test_fetch_bound :
    (after (State.reset.setPc 0xFFE)).pc = 0x1000 ∧
      (let t := after (State.reset.setPc 0xFFF)
       t.pc = 0xFFF ∧ t.fault = some (.memoryFault .fetch 0x1000)) := by decide

/-- CF2, CF3. -/
theorem test_ret :
    (let t := after (calls 16 0xABC (start 0x00EE [] 0 [])); t.pc = 0xABC ∧ t.sp = 15) ∧
      (let t := after (start 0x00EE [] 0 []); t.pc = 0x200 ∧ t.fault = some .stackUnderflow) := by
  decide

/-- CF4. -/
theorem test_jp : (after (start 0x1ABC [] 0 [])).pc = 0xABC := by decide

/-- CF9, CF10. -/
theorem test_call :
    (let t := after (calls 15 0 (start 0x2300 [] 0 []))
     t.pc = 0x300 ∧ t.sp = 16 ∧ t.stack[15] = 0x202) ∧
      (let t := after (calls 16 0 (start 0x2300 [] 0 []))
       t.pc = 0x200 ∧ t.fault = some .stackOverflow) := by decide

/-- CF13, CF14. -/
theorem test_jpV0 :
    (after (start 0xB300 [(0, 1), (3, 9)] 0 [])).pc = 0x301 ∧
      (after (start 0xBFFF [(0, 0xFF)] 0 [])).pc = 0x10FE := by decide

/-- CF15, CF16, CF18, CF19. -/
theorem test_skip_immediate :
    (after (start 0x3142 [(1, 0x42)] 0 [])).pc = 0x204 ∧
      (after (start 0x3143 [(1, 0x42)] 0 [])).pc = 0x202 ∧
      (after (start 0x4142 [(1, 0x42)] 0 [])).pc = 0x202 ∧
      (after (start 0x4143 [(1, 0x42)] 0 [])).pc = 0x204 := by decide

/-- CF20, CF21, CF23, CF24. -/
theorem test_skip_register :
    (after (start 0x5120 [(1, 7), (2, 7)] 0 [])).pc = 0x204 ∧
      (after (start 0x5120 [(1, 7), (2, 8)] 0 [])).pc = 0x202 ∧
      (after (start 0x9120 [(1, 7), (2, 8)] 0 [])).pc = 0x204 ∧
      (after (start 0x9120 [(1, 7), (2, 7)] 0 [])).pc = 0x202 := by decide

/-- AL1, AL4. -/
theorem test_ldImm_addImm :
    (after (start 0x6AFF [] 0 [])).reg 0xA = 0xFF ∧
      (let t := after (start 0x7102 [(1, 0xFF), (15, 5)] 0 [])
       t.reg 1 = 1 ∧ t.reg 15 = 5) := by decide

/-- AL7, AL9, AL10, AL11. -/
theorem test_copy_logic :
    (after (start 0x8120 [(2, 0x33)] 0 [])).reg 1 = 0x33 ∧
      (let t := after (start 0x8121 [(1, 0xF0), (2, 0x3C), (15, 9)] 0 [])
       t.reg 1 = 0xFC ∧ t.reg 15 = 9) ∧
      (let t := after (start 0x8122 [(1, 0xF0), (2, 0x3C), (15, 9)] 0 [])
       t.reg 1 = 0x30 ∧ t.reg 15 = 9) ∧
      (let t := after (start 0x8123 [(1, 0xF0), (2, 0x3C), (15, 9)] 0 [])
       t.reg 1 = 0xCC ∧ t.reg 15 = 9) := by decide

/-- S2.1, AL17. -/
theorem test_addReg :
    (let t := after (start 0x8124 [(1, 0xFF), (2, 1)] 0 []); t.reg 1 = 0 ∧ t.reg 15 = 1) ∧
      (after (start 0x8F14 [(15, 0xF0), (1, 0x20)] 0 [])).reg 15 = 1 := by decide

/-- S3.1, AL20, AL24. -/
theorem test_subReg :
    (let t := after (start 0x8125 [(1, 1), (2, 2)] 0 []); t.reg 1 = 0xFF ∧ t.reg 15 = 0) ∧
      (let t := after (start 0x8125 [(1, 7), (2, 7), (15, 1)] 0 [])
       t.reg 1 = 0 ∧ t.reg 15 = 0) ∧
      (after (start 0x8FE5 [(15, 7), (14, 3)] 0 [])).reg 15 = 4 := by decide

/-- AL31, AL32. -/
theorem test_shr :
    (let t := after (start 0x8236 [(2, 5), (3, 0xFF)] 0 []); t.reg 2 = 2 ∧ t.reg 15 = 1) ∧
      (after (start 0x8F06 [(15, 7)] 0 [])).reg 15 = 3 := by decide

/-- AL33, AL37. -/
theorem test_subnReg :
    (let t := after (start 0x8127 [(1, 2), (2, 5)] 0 []); t.reg 1 = 3 ∧ t.reg 15 = 1) ∧
      (let t := after (start 0x81F7 [(1, 3), (15, 0xA)] 0 []); t.reg 1 = 7 ∧ t.reg 15 = 1) := by
  decide

/-- AL38, AL42. -/
theorem test_shl :
    (let t := after (start 0x812E [(1, 0x81)] 0 []); t.reg 1 = 2 ∧ t.reg 15 = 1) ∧
      (after (start 0x8F0E [(15, 0x81)] 0 [])).reg 15 = 2 := by decide

/-- AL43: the byte 0xA7 is the host's, and is consumed. -/
theorem test_rnd :
    let t := after { start 0xC30F [] 0 [] with rndIn := [0xA7, 0x11] }
    t.reg 3 = 7 ∧ t.rndIn = [0x11] := by decide

/-- IM1, IM4, IM6. -/
theorem test_index :
    (after (start 0xAFFF [] 0 [])).i = 0xFFF ∧
      (after (start 0xF21E [(2, 1)] 0xFFF [])).i = 0x1000 ∧
      (after (start 0xF21E [(2, 0xFF)] 0xFFFF [])).i = 0xFE := by decide

/-- IM8, IM10. -/
theorem test_ldF :
    (after (start 0xF529 [(5, 0xF)] 0 [])).i = 0x9B ∧
      (after (start 0xF529 [(5, 0xFF)] 0 [])).i = 0x54B := by decide

/-- S6.1, IM16. -/
theorem test_ldB :
    (after (start 0xF033 [(0, 157)] 0x300 [])).mem.readBytes 0x300 3 = [1, 5, 7] ∧
      (let t := after (start 0xF033 [(0, 0xFF)] 0xFFE [])
       t.fault = some (.memoryFault .write 0x1000) ∧ t.mem.readBytes 0xFFE 2 = [0, 0]) := by decide

/-- IM18, IM19. -/
theorem test_stRegs :
    (let s := start 0xF255 [(0, 0x11), (1, 0x22), (2, 0x33)] 0x400 []
     (after s).mem.readBytes 0x400 3 = [0x11, 0x22, 0]) ∧
      (after (start 0xF055 [(0, 0x11)] 0xFFFF [])).fault = none := by decide

/-- IM23, IM26. -/
theorem test_ldRegs :
    (let t := after (start 0xF365 [(3, 0x99)] 0x300 [(0x300, 1), (0x301, 5), (0x302, 7), (0x303, 9)])
     t.reg 0 = 1 ∧ t.reg 1 = 5 ∧ t.reg 2 = 7 ∧ t.reg 3 = 0x99) ∧
      (let t := after (start 0xF365 [(0, 0x55)] 0xFFE [])
       t.fault = some (.memoryFault .read 0x1000) ∧ t.reg 0 = 0x55) := by decide

/-- DS1. -/
theorem test_cls :
    let t := after (pixelOn 63 31 ((start 0x00E0 [(15, 1)] 0 [])))
    t.disp = [] ∧ t.reg 15 = 1 := by decide

/-- DS3: both edges wrap. -/
theorem test_drw_wraps :
    let t := after (start 0xD012 [(0, 0x3E), (1, 0x1F)] 0x20E [(0x20E, 0xC3), (0x20F, 0x81)])
    t.disp.map Prod.fst = [5, 62, 31 * 64 + 4, 31 * 64 + 5, 31 * 64 + 62, 31 * 64 + 63] ∧
      t.reg 15 = 0 := by decide

/-- DS7: one pixel of two collides. -/
theorem test_drw_collision :
    let t := after (pixelOn 1 0 (start 0xD011 [] 0x300 [(0x300, 0xC0)]))
    t.disp = [(0, 0xFF)] ∧ t.reg 15 = 1 := by decide

/-- KT9, KT11. -/
theorem test_skp :
    (after (keyDown 7 (start 0xE19E [(1, 7)] 0 []))).pc = 0x204 ∧
      (after (keyDown 0 (start 0xE19E [(1, 16)] 0 []))).fault = some (.keyIndexFault 16) := by decide

/-- KT12, KT13. -/
theorem test_sknp :
    (after (keyDown 7 (start 0xE1A1 [(1, 7)] 0 []))).pc = 0x202 ∧
      (after (start 0xE1A1 [(1, 7)] 0 [])).pc = 0x204 := by decide

/-- KT15, KT16. -/
theorem test_ldVxK :
    (let t := after ((start 0xF10A [(1, 9)] 0 []).setDt 3)
     t.pc = 0x200 ∧ t.reg 1 = 9 ∧ t.dt = 2) ∧
      (after (keyDown 7 (keyDown 3 (start 0xF10A [(1, 9)] 0 [])))).reg 1 = 3 := by decide

/-- KT5, KT1, KT7. -/
theorem test_timers :
    (let t := after ((start 0xF207 [] 0 []).setDt 4); t.reg 2 = 4 ∧ t.dt = 3) ∧
      (after (start 0xF015 [(0, 5)] 0 [])).dt = 4 ∧
      (after (start 0xF318 [(3, 2)] 0 [])).st = 1 := by decide

/-- R166, R180: the latch stops every CYCLE, and RESET clears it. -/
theorem test_latch :
    let t := after (start 0x00EE [] 0 [])
    t.fault = some .stackUnderflow ∧ after t = t ∧ (hostReset t).fault = none := by decide

/-- R183, R187: what the host may do, in order. -/
theorem test_host_order :
    hostMay .unreset (.cycle 0) = none ∧ hostMay .unreset .reset = some (.boot false false) ∧
      hostMay (.boot true false) (.cycle 0) = none ∧
      hostMay (.boot true true) (.cycle 0) = some .running ∧
      hostMay .running (.loadRom []) = none := by decide

/-- The memory of the reset state has the canonical form (log 1). -/
theorem test_reset_memory : State.reset.mem.wf ∧ State.reset.disp.wf := by decide

/-! ## Witnesses: the hypotheses of each statement can be met, clause by clause -/

/-- A state of the invariant with a program byte, a pixel that is on, and a return address. -/
def busy : State := calls 1 4096 (pixelOn 63 31 (start 0xD011 [(0, 63), (1, 31)] 0x300 [(0x300, 0x80)]))

theorem witness_DecodeInvertsEncode :
    (Instr.drw 1 2 3).wellFormed = true ∧ (Instr.null 0x00E1).wellFormed = true := by decide

/-- One state where the instruction raises no fault, one where it does. -/
theorem witness_StepRunsDecodedInstruction :
    readyToRun (.jp 0x200) (start 0x1200 [] 0 []) ∧
      (after (start 0x1200 [] 0 [])).fault = none ∧
      readyToRun .ret (start 0x00EE [] 0 []) ∧ (after (start 0x00EE [] 0 [])).fault ≠ none := by
  unfold readyToRun; decide

/-- As above, and at the last address an instruction can be fetched from. -/
theorem witness_PcAfterEveryCycle :
    readyToRun (.seImm 1 0) ((start 0 [] 0 [(0xFFE, 0x31)]).setPc 0xFFE) ∧
      (Instr.seImm 1 0).wellFormed = true ∧
      (after ((start 0 [] 0 [(0xFFE, 0x31)]).setPc 0xFFE)).pc = 0x1002 ∧
      readyToRun (.call 0x300) (calls 16 0 (start 0x2300 [] 0 [])) ∧
      (after (calls 16 0 (start 0x2300 [] 0 []))).pc = 0x200 := by
  unfold readyToRun; decide

theorem witness_NullOnlyAdvances :
    let s := State.reset.setPc 4094
    s.fault = none ∧ s.pc.toNat ≤ 4094 ∧ isNullWord (opcodeAt s) = true := by decide

theorem witness_FinishedProgramStays : finished (start 0x1200 [] 0 []) :=
  ⟨rfl, 0x200, rfl, rfl⟩

theorem witness_FaultsArePrecise :
    ∃ t, step (start 0xF033 [] 0xFFE []) = .next t ∧
      t.fault = some (.memoryFault .write 0x1000) := ⟨_, rfl, rfl⟩

/-- The fetch's clause at PC = 4095, the instruction's at PC = 4094, and the condition of every fault
of the table at a boundary value. -/
theorem witness_FaultsExactlyWhenTheTableSays :
    (∃ t, step (State.reset.setPc 4095) = .next t ∧
        t.fault = some (.memoryFault .fetch 4096)) ∧
      (∃ t, step ((State.reset.setPc 4094).withFetchWord 16 0x00EE) = .next t ∧
        t.fault = some .stackUnderflow) ∧
      raises (.ldB 0) (State.reset.setI 4094) (.memoryFault .write 4096) ∧
      raises (.stRegs 15) (State.reset.setI 4082) (.memoryFault .write 4096) ∧
      raises (.ldRegs 1) (State.reset.setI 0xFFFF) (.memoryFault .read 0xFFFF) ∧
      raises (.drw 0 0 15) (State.reset.setI 4082) (.memoryFault .read 4096) ∧
      raises (.call 0) (calls 16 0 State.reset) .stackOverflow ∧
      raises .ret State.reset .stackUnderflow ∧
      raises (.skp 1) (State.reset.setReg 1 16) (.keyIndexFault 16) ∧
      raises (.sknp 1) (State.reset.setReg 1 16) (.keyIndexFault 16) := by
  refine ⟨⟨_, rfl, rfl⟩, ⟨_, rfl, rfl⟩, ?_⟩
  unfold raises; decide

theorem witness_OnlyResetClearsFault :
    let s := State.reset.setFault .stackOverflow
    s.fault = some .stackOverflow ∧
      (∃ t r, transact (.loadRom [1]) s = .next (t, r)) ∧
      (∃ t r, transact (.cycle 0) s = .next (t, r)) := ⟨rfl, ⟨_, _, rfl⟩, ⟨_, _, rfl⟩⟩

/-- The invariant holds of a state with memory, display and stack in use. -/
theorem witness_StepKeepsInvariant : busy.Inv ∧ ∃ t, step busy = .next t :=
  ⟨⟨by unfold memOk; decide, ⟨by decide, by decide, fun k => by
    have h : busy.disp = [(2047, 0xFF)] := by decide
    rw [h]
    by_cases e : 2047 = k <;> simp [Memory.read, e]⟩,
    by unfold pcOk; decide⟩, ⟨_, rfl⟩⟩

theorem witness_TransactionsKeepInvariant :
    busy.Inv ∧ ∃ t r, transact (.cycle 7) busy = .next (t, r) :=
  ⟨witness_StepKeepsInvariant.1, ⟨_, _, rfl⟩⟩

theorem witness_InstructionsWriteOnlyTheirColumns :
    ∃ t, exec (.addReg 1 2) busy = .next t ∧ t.fault = busy.fault := ⟨_, rfl, rfl⟩

theorem witness_OnlyKeyInstructionsReadKeys :
    ∀ x, Instr.cls ≠ .skp x ∧ Instr.cls ≠ .sknp x ∧ Instr.cls ≠ .ldVxK x := by decide

theorem witness_OnlyRndReadsRandomBytes : ∀ x kk, Instr.cls ≠ .rnd x kk := by
  intro x kk h; cases h

theorem witness_NoInstructionReadsSoundTimer :
    (∀ x, Instr.cls ≠ .ldStVx x) ∧ ∃ x, Instr.ldStVx 3 = .ldStVx x := ⟨by decide, 3, rfl⟩

theorem witness_StoresAreSeenByFetch :
    (State.reset.setI 4093).i.toNat ≤ 4093 ∧
      (State.reset.setI 4095).i.toNat + (1 : Reg).val ≤ 4096 ∧
      (State.reset.setI 4081).i.toNat + (15 : Reg).val ≤ 4096 ∧ (4094 : Word).toNat ≤ 4094 := by
  decide

theorem witness_ReturnPopsTheStack :
    (calls 1 0 State.reset).sp ≠ 0 ∧ (calls 16 0 State.reset).sp ≠ 0 ∧ State.reset.sp = 0 := by
  decide

theorem witness_CallPushesTheReturnAddress :
    State.reset.sp.val < 16 ∧ (calls 15 0 State.reset).sp.val < 16 ∧
      (calls 16 0 State.reset).sp = 16 := by decide

theorem witness_CallThenReturnRoundTrip :
    let s := start 0x2FFE [] 0 [(0xFFF, 0xEE)]
    readyToRun (.call 0xFFE) s ∧ s.sp.val < 16 ∧ (0xFFE : Addr12).toNat ≤ 4094 ∧
      s.mem.read (0xFFE : Addr12).toNat = 0x00 ∧
      s.mem.read ((0xFFE : Addr12).toNat + 1) = 0xEE := by
  unfold readyToRun; decide

theorem witness_AddSetsCarry : (0 : Reg) ≠ 15 ∧ (14 : Reg) ≠ 15 := by decide

theorem witness_SubtractSetsStrictGreater : (14 : Reg) ≠ 15 := by decide

theorem witness_ShiftsMoveOneBitOut : (14 : Reg) ≠ 15 := by decide

theorem witness_RandomByteIsMasked :
    (∃ b bs, { State.reset with rndIn := [3] }.rndIn = b :: bs) ∧ State.reset.rndIn = [] ∧
      readyToRun (.rnd 3 0x0F) (start 0xC30F [] 0 []) :=
  ⟨⟨_, _, rfl⟩, rfl, by unfold readyToRun; decide⟩

/-- The two clauses at the values of I where they meet. -/
theorem witness_StoreDecimalDigits :
    (State.reset.setI 4093).i.toNat ≤ 4093 ∧ 4093 < (State.reset.setI 4094).i.toNat := by decide

/-- X = 0 at the highest I, and X = 15 at the values of I where the two clauses meet. -/
theorem witness_StoreRegistersBelowX :
    ((0 : Reg) = 0 ∧ (State.reset.setI 0xFFFF).i.toNat = 65535) ∧
      (State.reset.setI 4081).i.toNat + (15 : Reg).val ≤ 4096 ∧
      ((15 : Reg) ≠ 0 ∧ 4096 < (State.reset.setI 4082).i.toNat + (15 : Reg).val) := by decide

/-- As for the store, and registers below X at both ends. -/
theorem witness_LoadRegistersBelowX :
    ((1 : Reg) ≠ 0 ∧ (State.reset.setI 4095).i.toNat + (1 : Reg).val ≤ 4096) ∧
      ((1 : Reg) ≠ 0 ∧ 4096 < (State.reset.setI 4096).i.toNat + (1 : Reg).val) ∧
      ((0 : Reg) < 15 ∧ (14 : Reg) < 15) := by decide

theorem witness_ClearTurnsEveryCellOff : ∀ k, State.reset.disp.read k = 0x00 := fun _ => rfl

/-- N = 0 at the highest I, N = 15 where the two clauses meet, a sprite pixel on a cell that is on,
and one on cells that are all off. -/
theorem witness_DrawTogglesTheSpritePixels :
    ((0 : Nibble) = 0 ∧ (State.reset.setI 0xFFFF).i.toNat = 65535) ∧
      (State.reset.setI 4081).i.toNat + (15 : Nibble).toNat ≤ 4096 ∧
      ((15 : Nibble) ≠ 0 ∧ 4096 < (State.reset.setI 4082).i.toNat + (15 : Nibble).toNat) ∧
      (spritePixel busy (busy.reg 0) (busy.reg 1) 1 63 31 ∧
        busy.disp.read (31 * 64 + 63) ≠ 0x00) ∧
      (∀ px py, spritePixel State.reset 0 0 1 px py →
        State.reset.disp.read (py * 64 + px) = 0x00) :=
  ⟨by decide, by decide, by decide,
    ⟨⟨0, 0, by decide, by decide, by decide, by decide, by decide⟩, by decide⟩, fun _ _ _ => rfl⟩

/-- The same place with X and Y below 15, and with X = 15 when VF is 0 and stays so; every sprite pixel
off, and one of two off. -/
theorem witness_DrawingTwiceRestoresTheDisplay :
    (let s := start 0xD011 [(0, 63), (1, 31)] 0x300 [(0x300, 0xFF)]
     s.i.toNat + (1 : Nibble).toNat ≤ 4096 ∧
      (∃ t, exec (.drw 0 1 1) s = .next t ∧ t.reg 0 = s.reg 0 ∧ t.reg 1 = s.reg 1) ∧
      (∃ t, exec (.drw 15 1 1) s = .next t ∧ t.reg 15 = s.reg 15 ∧ t.reg 1 = s.reg 1) ∧
      ∀ px py, spritePixel s (s.reg 0) (s.reg 1) 1 px py → s.disp.read (py * 64 + px) = 0x00) ∧
    (let s := pixelOn 0 0 (start 0xD011 [] 0x300 [(0x300, 0xC0)])
     spritePixel s (s.reg 0) (s.reg 1) 1 1 0 ∧ s.disp.read (0 * 64 + 1) = 0x00) :=
  ⟨⟨by decide, ⟨_, rfl, by decide, by decide⟩, ⟨_, rfl, by decide, by decide⟩, fun _ _ _ => rfl⟩,
    ⟨⟨0, 1, by decide, by decide, by decide, by decide, by decide⟩, by decide⟩⟩

/-- Keys 0 and 15, and the first number that is no key. -/
theorem witness_KeySkipsTestTheKeyNumberedByVx :
    ((State.reset.setReg 1 0).reg 1).toNat = (0 : Fin 16).val ∧
      ((State.reset.setReg 1 15).reg 1).toNat = (15 : Fin 16).val ∧
      15 < ((State.reset.setReg 1 16).reg 1).toNat := by decide

/-- No key, the first key, the last key only. -/
theorem witness_KeyWaitPolls :
    (∀ k : Fin 16, State.reset.key[k] = false) ∧
      ((keyDown 0 State.reset).key[(0 : Fin 16)] = true ∧
        ∀ j : Fin 16, j < 0 → (keyDown 0 State.reset).key[j] = false) ∧
      ((keyDown 15 State.reset).key[(15 : Fin 16)] = true ∧
        ∀ j : Fin 16, j < 15 → (keyDown 15 State.reset).key[j] = false) ∧
      readyToRun (.ldVxK 1) (start 0xF10A [] 0 []) := by
  unfold readyToRun; decide

theorem witness_ReadDelayTimer : readyToRun (.ldVxDt 2) (start 0xF207 [] 0 []) := by
  unfold readyToRun; decide

theorem witness_SetTimers :
    readyToRun (.ldDtVx 0) (start 0xF015 [] 0 []) ∧
      readyToRun (.ldStVx 3) (start 0xF318 [(3, 2)] 0 []) := by
  unfold readyToRun; decide

/-- A ROM of one byte, the longest that is not truncated, and the shortest that is. -/
theorem witness_LoadRomTruncatesWithWarning :
    0 < min [(7 : Byte)].length 3584 ∧ ¬3584 < (List.replicate 3584 (7 : Byte)).length ∧
      3584 < (List.replicate 3585 (7 : Byte)).length := by
  simp only [List.length_replicate]; decide

theorem witness_BootedMemoryMap :
    ([] : List Byte).length ≤ 3584 ∧ (List.replicate 3584 (7 : Byte)).length ≤ 3584 := by
  simp only [List.length_replicate]; decide

theorem witness_ReadDisplayIsRowMajor : dispOk busy := witness_StepKeepsInvariant.1.disp

theorem witness_ReadStatusReportsFaultAndSound :
    readyToRun (.ldStVx 3) (start 0xF318 [(3, 2)] 0 []) ∧
      readyToRun (.ldStVx 3) (start 0xF318 [(3, 1)] 0 []) := by
  unfold readyToRun; decide

theorem witness_OnlySetKeysWritesKeys :
    HostEvent.cycle 0 ≠ .reset ∧ (∀ k, HostEvent.cycle 0 ≠ .setKeys k) ∧
      ∃ t r, transact (.cycle 0) (keyDown 7 (start 0xE19E [(1, 7)] 0 [])) = .next (t, r) :=
  ⟨by simp, by simp, _, _, rfl⟩

/-- The last address before the font, its first and last byte, and the first address after it. -/
theorem witness_LoadFontsetWritesOnlyTheFont :
    0x04F < 0x050 ∧ 0x050 + (0 : Fin 80).val = 0x050 ∧ 0x050 + (79 : Fin 80).val = 0x09F ∧
      0x0A0 ≤ 0x0A0 := by decide

theorem witness_HostReadsPcOfFaultingInstruction :
    let s := start 0x00EE [] 0 []
    s.fault = none ∧
      ∃ t, transact (.cycle 0) s = .next (t, .cycled (some .stackUnderflow)) :=
  ⟨rfl, _, rfl⟩

end Sys2Proof.Tests
end

section
/-! PROOFS. What a row of mask 0xF000 says about decoding, updates that write PC and nothing else, and
from these the jump `1NNN` and the skips `3XKK` and `4XKK` (spec/41_control_flow.md R91, R94, R95). -/

namespace Sys2Proof

/-- An opcode that selects a row whose mask covers the class is of the row's class (R65). -/
theorem fieldClass_eq_of_and_eq {w m p : Word} (hm : fieldClass m = 0xF) (h : w &&& m = p) :
    fieldClass w = fieldClass p := by
  rw [← h, fieldClass_and hm]

theorem decodeWord_of_class1 {w : Word} (h : fieldClass w = 0x1) :
    decodeWord w = .jp (fieldNNN w) := by
  simp [decodeWord, h]

theorem decodeWord_of_class3 {w : Word} (h : fieldClass w = 0x3) :
    decodeWord w = .seImm (fieldX w) (fieldKK w) := by
  simp [decodeWord, h]

theorem decodeWord_of_class4 {w : Word} (h : fieldClass w = 0x4) :
    decodeWord w = .sneImm (fieldX w) (fieldKK w) := by
  simp [decodeWord, h]

end Sys2Proof

namespace Sys2Proof.Machine

/-- A row of mask 0xF000 leaves every bit but the class to the operands: it decodes as `f` when its
class does (R65). -/
theorem decodesAs_of_class {c : Nibble} {p : Word} {f : Word → Instr} (hp : fieldClass p = c)
    (hf : ∀ {w}, fieldClass w = c → decodeWord w = f w) : decodesAs 0xF000 p f :=
  fun _ hw => hf ((fieldClass_eq_of_and_eq (by decide) hw).trans hp)

@[simp] theorem zext12_toNat (nnn : Addr12) : (zext12 nnn).toNat = nnn.toNat :=
  BitVec.toNat_setWidth_of_le (by decide)

/-! ## Updates that write PC and nothing else -/

theorem onlyPc_setPc (s : State) (a : Word) : onlyPc s (s.setPc a) :=
  ⟨fun _ _ => rfl, rfl, ⟨rfl, rfl⟩, ⟨rfl, rfl⟩, fun _ => rfl, fun _ => rfl, ⟨rfl, rfl⟩, ⟨rfl, rfl⟩⟩

theorem onlyPc_skipIf (s : State) (c : Bool) : onlyPc s (s.skipIf c) := by
  rw [State.skipIf_eq]
  exact onlyPc_setPc s _

/-! ## The instructions -/

theorem exec_jp (nnn : Addr12) (s : State) :
    exec (.jp nnn) s = .next (s.setPc (zext12 nnn)) := rfl

theorem exec_seImm (x : Reg) (kk : Byte) (s : State) :
    exec (.seImm x kk) s = .next (s.skipIf (s.reg x == kk)) := rfl

theorem exec_sneImm (x : Reg) (kk : Byte) (s : State) :
    exec (.sneImm x kk) s = .next (s.skipIf (s.reg x != kk)) := rfl

/-- A skip on equality, by the numbers the two bytes hold (R94). -/
theorem State.skipIf_beq_pc (s : State) (a b : Byte) :
    (s.skipIf (a == b)).pc = if a.toNat = b.toNat then s.pc + 2 else s.pc := by
  simp [BitVec.toNat_inj]

/-- A skip on inequality, by the numbers the two bytes hold (R95). -/
theorem State.skipIf_bne_pc (s : State) (a b : Byte) :
    (s.skipIf (a != b)).pc = if a.toNat = b.toNat then s.pc else s.pc + 2 := by
  simp [BitVec.toNat_inj]

/-- Settles O23: every word of class 1 decodes to `1NNN`, whose meaning is one write of PC. -/
theorem jumpSetsPc : Obligations.JumpSetsPc := by
  refine ⟨decodesAs_of_class (by decide) decodeWord_of_class1, fun nnn s => ?_⟩
  exact ⟨_, exec_jp nnn s, onlyPc_setPc s _, by rw [State.setPc_pc, zext12_toNat]⟩

/-- Settles O27: words of classes 3 and 4 decode with their X and KK, and both meanings are skips,
which write PC only. -/
theorem skipsOnImmediate : Obligations.SkipsOnImmediate := by
  refine ⟨decodesAs_of_class (by decide) decodeWord_of_class3,
    decodesAs_of_class (by decide) decodeWord_of_class4, fun x kk s => ⟨?_, ?_⟩⟩
  · exact ⟨_, exec_seImm x kk s, onlyPc_skipIf s _, s.skipIf_beq_pc _ _⟩
  · exact ⟨_, exec_sneImm x kk s, onlyPc_skipIf s _, s.skipIf_bne_pc _ _⟩

end Sys2Proof.Machine
end

section
/-! PROOFS. What a row of mask 0xF00F says about decoding, updates that write general registers and
nothing else, and from these the loads, the wrapping add, the copy, the logic and the add with carry
(spec/42_alu.md R100 to R106). -/

namespace Sys2Proof

/-- An opcode that selects a row whose mask covers N has the row's N (R65). -/
theorem fieldN_eq_of_and_eq {w m p : Word} (hm : fieldN m = 0xF) (h : w &&& m = p) :
    fieldN w = fieldN p := by
  rw [← h, fieldN_and hm]

theorem decodeWord_of_class6 {w : Word} (h : fieldClass w = 0x6) :
    decodeWord w = .ldImm (fieldX w) (fieldKK w) := by
  simp [decodeWord, h]

theorem decodeWord_of_class7 {w : Word} (h : fieldClass w = 0x7) :
    decodeWord w = .addImm (fieldX w) (fieldKK w) := by
  simp [decodeWord, h]

theorem decodeWord_of_class8 {w : Word} (h : fieldClass w = 0x8) :
    decodeWord w = decodeClass8 w := by
  simp [decodeWord, h]

theorem decodeClass8_of_n0 {w : Word} (h : fieldN w = 0x0) :
    decodeClass8 w = .ldReg (fieldX w) (fieldY w) := by
  simp [decodeClass8, h]

theorem decodeClass8_of_n1 {w : Word} (h : fieldN w = 0x1) :
    decodeClass8 w = .orReg (fieldX w) (fieldY w) := by
  simp [decodeClass8, h]

theorem decodeClass8_of_n2 {w : Word} (h : fieldN w = 0x2) :
    decodeClass8 w = .andReg (fieldX w) (fieldY w) := by
  simp [decodeClass8, h]

theorem decodeClass8_of_n3 {w : Word} (h : fieldN w = 0x3) :
    decodeClass8 w = .xorReg (fieldX w) (fieldY w) := by
  simp [decodeClass8, h]

theorem decodeClass8_of_n4 {w : Word} (h : fieldN w = 0x4) :
    decodeClass8 w = .addReg (fieldX w) (fieldY w) := by
  simp [decodeClass8, h]

end Sys2Proof

namespace Sys2Proof.Machine

/-- A row of mask 0xF00F fixes the class and N: it decodes as `f` when the words of its class and N
do (R65). -/
theorem decodesAs_of_class_n {c n : Nibble} {p : Word} {f : Word → Instr} (hc : fieldClass p = c)
    (hn : fieldN p = n) (hf : ∀ {w}, fieldClass w = c → fieldN w = n → decodeWord w = f w) :
    decodesAs 0xF00F p f :=
  fun _ hw => hf ((fieldClass_eq_of_and_eq (by decide) hw).trans hc)
    ((fieldN_eq_of_and_eq (by decide) hw).trans hn)

/-- A row of class 8 decodes as `f` when the class 8 table does at the row's N (R65). -/
theorem decodesAs_of_class8 {n : Nibble} {p : Word} {f : Word → Instr} (hc : fieldClass p = 0x8)
    (hn : fieldN p = n) (hf : ∀ {w}, fieldN w = n → decodeClass8 w = f w) :
    decodesAs 0xF00F p f :=
  decodesAs_of_class_n hc hn fun h8 hw => (decodeWord_of_class8 h8).trans (hf hw)

/-! ## Updates that write general registers and nothing else -/

theorem sameRegsBut_setReg (s : State) (x : Reg) (b : Byte) : sameRegsBut [x] s (s.setReg x b) :=
  fun _ hr => s.setReg_reg_of_ne b (List.ne_of_not_mem_cons hr)

theorem onlyRegs_setReg (s : State) (x : Reg) (b : Byte) : onlyRegs [x] s (s.setReg x b) :=
  ⟨sameRegsBut_setReg s x b, rfl, rfl, ⟨rfl, rfl⟩, ⟨rfl, rfl⟩, fun _ => rfl, fun _ => rfl,
    ⟨rfl, rfl⟩, ⟨rfl, rfl⟩⟩

theorem sameRegsBut_setResultThenFlag (s : State) (x : Reg) (r : Byte) (c : Bool) :
    sameRegsBut [x, 15] s (s.setResultThenFlag x r c) := by
  intro q hq
  obtain ⟨hx, hf⟩ : q ≠ x ∧ q ≠ 15 := by simpa using hq
  exact s.setResultThenFlag_reg_other x r c hx hf

theorem onlyRegs_setResultThenFlag (s : State) (x : Reg) (r : Byte) (c : Bool) :
    onlyRegs [x, 15] s (s.setResultThenFlag x r c) :=
  ⟨sameRegsBut_setResultThenFlag s x r c, rfl, rfl, ⟨rfl, rfl⟩, ⟨rfl, rfl⟩, fun _ => rfl,
    fun _ => rfl, ⟨rfl, rfl⟩, ⟨rfl, rfl⟩⟩

/-! ## The instructions -/

theorem exec_ldImm (x : Reg) (kk : Byte) (s : State) :
    exec (.ldImm x kk) s = .next (s.setReg x kk) := rfl

theorem exec_addImm (x : Reg) (kk : Byte) (s : State) :
    exec (.addImm x kk) s = .next (s.setReg x (s.reg x + kk)) := rfl

theorem exec_ldReg (x y : Reg) (s : State) :
    exec (.ldReg x y) s = .next (s.setReg x (s.reg y)) := rfl

theorem exec_orReg (x y : Reg) (s : State) :
    exec (.orReg x y) s = .next (s.setReg x (s.reg x ||| s.reg y)) := rfl

theorem exec_andReg (x y : Reg) (s : State) :
    exec (.andReg x y) s = .next (s.setReg x (s.reg x &&& s.reg y)) := rfl

theorem exec_xorReg (x y : Reg) (s : State) :
    exec (.xorReg x y) s = .next (s.setReg x (s.reg x ^^^ s.reg y)) := rfl

theorem exec_addReg (x y : Reg) (s : State) :
    exec (.addReg x y) s =
      .next (s.setResultThenFlag x (s.reg x + s.reg y) (carryOut (s.reg x) (s.reg y))) := rfl

/-- The carry as the number VF holds (R106). -/
theorem flagByte_carryOut_toNat (a b : Byte) :
    (flagByte (carryOut a b)).toNat = if a.toNat + b.toNat > 255 then 1 else 0 := by
  simp only [flagByte_toNat, carryOut_iff]

/-- Settles O29: words of classes 6 and 7 decode with their X and KK, and both meanings are one
write of VX, the second of the byte sum. -/
theorem loadAndAddImmediate : Obligations.LoadAndAddImmediate := by
  refine ⟨decodesAs_of_class (by decide) decodeWord_of_class6,
    decodesAs_of_class (by decide) decodeWord_of_class7, fun x kk s => ⟨?_, ?_⟩⟩
  · exact ⟨_, exec_ldImm x kk s, onlyRegs_setReg s x _, s.setReg_reg_same x _⟩
  · exact ⟨_, exec_addImm x kk s, onlyRegs_setReg s x _,
      by rw [s.setReg_reg_same, BitVec.toNat_add]⟩

/-- Settles O30: `8XY0` is one write of VX, of the byte in VY. -/
theorem copyRegister : Obligations.CopyRegister := by
  refine ⟨decodesAs_of_class8 (by decide) (by decide) decodeClass8_of_n0, fun x y s => ?_⟩
  exact ⟨_, exec_ldReg x y s, onlyRegs_setReg s x _, s.setReg_reg_same x _⟩

/-- Settles O31: each of `8XY1`, `8XY2` and `8XY3` is one write of VX, of a bitwise combination. -/
theorem logicKeepsVF : Obligations.LogicKeepsVF := by
  refine ⟨decodesAs_of_class8 (by decide) (by decide) decodeClass8_of_n1,
    decodesAs_of_class8 (by decide) (by decide) decodeClass8_of_n2,
    decodesAs_of_class8 (by decide) (by decide) decodeClass8_of_n3, fun x y s => ⟨?_, ?_, ?_⟩⟩
  · exact ⟨_, exec_orReg x y s, onlyRegs_setReg s x _,
      fun k => by rw [s.setReg_reg_same, BitVec.getLsbD_or]⟩
  · exact ⟨_, exec_andReg x y s, onlyRegs_setReg s x _,
      fun k => by rw [s.setReg_reg_same, BitVec.getLsbD_and]⟩
  · exact ⟨_, exec_xorReg x y s, onlyRegs_setReg s x _,
      fun k => by rw [s.setReg_reg_same, BitVec.getLsbD_xor]⟩

/-- Settles O32: the sum is written to VX first and the carry to VF last, so VF holds the carry for
every X, and VX the sum when X is not 15. -/
theorem addSetsCarry : Obligations.AddSetsCarry := by
  refine ⟨decodesAs_of_class8 (by decide) (by decide) decodeClass8_of_n4, fun x y s => ?_⟩
  refine ⟨_, exec_addReg x y s, onlyRegs_setResultThenFlag s x _ _, fun hx => ?_, ?_⟩
  · rw [s.setResultThenFlag_reg_result x _ _ hx, BitVec.toNat_add]
  · rw [s.setResultThenFlag_reg_flag, flagByte_carryOut_toNat]

end Sys2Proof.Machine
end

section
/-! PROOFS. The word of class A, the update that writes I and nothing else, and from these the index
load `ANNN` (spec/43_index_memory.md R120). -/

namespace Sys2Proof

theorem decodeWord_of_classA {w : Word} (h : fieldClass w = 0xA) :
    decodeWord w = .ldI (fieldNNN w) := by
  simp [decodeWord, h]

end Sys2Proof

namespace Sys2Proof.Machine

theorem onlyI_setI (s : State) (a : Word) : onlyI s (s.setI a) :=
  ⟨fun _ _ => rfl, rfl, ⟨rfl, rfl⟩, ⟨rfl, rfl⟩, fun _ => rfl, fun _ => rfl, ⟨rfl, rfl⟩, ⟨rfl, rfl⟩⟩

theorem exec_ldI (nnn : Addr12) (s : State) :
    exec (.ldI nnn) s = .next (s.setI (zext12 nnn)) := rfl

/-- Settles O36: every word of class A decodes to `ANNN`, whose meaning is one write of I. -/
theorem loadIndex : Obligations.LoadIndex := by
  refine ⟨decodesAs_of_class (by decide) decodeWord_of_classA, fun nnn s => ?_⟩
  exact ⟨_, exec_ldI nnn s, onlyI_setI s _, by rw [State.setI_i, zext12_toNat]⟩

end Sys2Proof.Machine
end

section
/-! PROOFS. The update that empties the display and touches nothing else, and from it the clear
`00E0` (spec/44_display.md R130). -/

namespace Sys2Proof.Machine

theorem onlyDispRegs_setDisp (s : State) (d : Memory) : onlyDispRegs [] s (s.setDisp d) :=
  ⟨fun _ _ => rfl, rfl, rfl, ⟨rfl, rfl⟩, ⟨rfl, rfl⟩, fun _ => rfl, ⟨rfl, rfl⟩, ⟨rfl, rfl⟩⟩

theorem exec_cls (s : State) : exec .cls s = .next (s.setDisp []) := rfl

/-- Every cell of an emptied display reads PIXEL_OFF (R130). -/
theorem State.setDisp_nil_disp_read (s : State) (k : Nat) : (s.setDisp []).disp.read k = 0x00 := by
  rw [State.setDisp_disp, Memory.read_nil]

/-- Settles O41: `00E0` is one write of the display, to the empty one, which agrees cell by cell
with a display that is already clear. -/
theorem clearTurnsEveryCellOff : Obligations.ClearTurnsEveryCellOff := by
  refine ⟨by decide, fun s => ?_⟩
  exact ⟨_, exec_cls s, onlyDispRegs_setDisp s [], fun k _ => s.setDisp_nil_disp_read k,
    fun hclear k => (s.setDisp_nil_disp_read k).trans (hclear k).symm⟩

end Sys2Proof.Machine
end

section
/-! PROOFS. What a row of mask 0xF0FF says about decoding, the CYCLE of the instruction at PC,
the lowest key that is down, and from these the key wait `FX0A` and the timer instructions
`FX07`, `FX15` and `FX18` (spec/45_keypad_timers.md R142 to R145). -/

namespace Sys2Proof

/-- An opcode that selects a row whose mask covers the low byte has the row's low byte (R65). -/
theorem fieldKK_eq_of_and_eq {w m p : Word} (hm : fieldKK m = 0xFF) (h : w &&& m = p) :
    fieldKK w = fieldKK p := by
  rw [← h, fieldKK_and hm]

theorem decodeWord_of_classF {w : Word} (h : fieldClass w = 0xF) :
    decodeWord w = decodeClassF w := by
  simp [decodeWord, h]

theorem decodeClassF_of_kk07 {w : Word} (h : fieldKK w = 0x07) :
    decodeClassF w = .ldVxDt (fieldX w) := by
  simp [decodeClassF, h]

theorem decodeClassF_of_kk0A {w : Word} (h : fieldKK w = 0x0A) :
    decodeClassF w = .ldVxK (fieldX w) := by
  simp [decodeClassF, h]

theorem decodeClassF_of_kk15 {w : Word} (h : fieldKK w = 0x15) :
    decodeClassF w = .ldDtVx (fieldX w) := by
  simp [decodeClassF, h]

theorem decodeClassF_of_kk18 {w : Word} (h : fieldKK w = 0x18) :
    decodeClassF w = .ldStVx (fieldX w) := by
  simp [decodeClassF, h]

end Sys2Proof

namespace Sys2Proof.Machine

/-- A row of mask 0xF0FF fixes the class and the low byte: it decodes as `f` when the words of its
class and low byte do (R65). -/
theorem decodesAs_of_class_kk {c : Nibble} {kk : Byte} {p : Word} {f : Word → Instr}
    (hc : fieldClass p = c) (hk : fieldKK p = kk)
    (hf : ∀ {w}, fieldClass w = c → fieldKK w = kk → decodeWord w = f w) : decodesAs 0xF0FF p f :=
  fun _ hw => hf ((fieldClass_eq_of_and_eq (by decide) hw).trans hc)
    ((fieldKK_eq_of_and_eq (by decide) hw).trans hk)

/-- A row of class F decodes as `f` when the class F table does at the row's low byte (R65). -/
theorem decodesAs_of_classF {kk : Byte} {p : Word} {f : Word → Instr} (hc : fieldClass p = 0xF)
    (hk : fieldKK p = kk) (hf : ∀ {w}, fieldKK w = kk → decodeClassF w = f w) :
    decodesAs 0xF0FF p f :=
  decodesAs_of_class_kk hc hk fun hF hw => (decodeWord_of_classF hF).trans (hf hw)

/-- The word packed from class F, X and a low byte decodes to what the class F table has at that low
byte. -/
theorem decodeWord_packXKK_classF {kk : Byte} {f : Reg → Instr} (x : Reg)
    (hf : ∀ {w}, fieldKK w = kk → decodeClassF w = f (fieldX w)) :
    decodeWord (packXKK 0xF x kk) = f x := by
  rw [decodeWord_of_classF (fieldClass_packXKK ..), hf (fieldKK_packXKK ..), fieldX_packXKK]

/-! ## The CYCLE of an instruction that stands at PC -/

/-- The opcode at PC of a state that is ready to run `i` is the one `i` encodes to (R46, R81). -/
theorem joinBytes_of_readyToRun {i : Instr} {s : State} (h : readyToRun i s) :
    joinBytes (s.mem.read s.pc.toNat) (s.mem.read (s.pc.toNat + 1)) = encode i := by
  obtain ⟨-, -, hbytes⟩ := h
  obtain ⟨hhi, hlo⟩ : s.mem.read s.pc.toNat = highByte (encode i) ∧
      s.mem.read (s.pc.toNat + 1) = lowByte (encode i) := by simpa [encodeBytes] using hbytes
  rw [hhi, hlo, joinBytes_highByte_lowByte]

/-- The CYCLE of an instruction that leaves FAULT as it was: its effect on the state after the
pre-increment, then the tick (R82 to R84). -/
theorem step_of_readyToRun {i : Instr} {s t : State} (h : readyToRun i s)
    (hd : decodeWord (encode i) = i) (he : exec i s.preIncrement = .next t)
    (hf : t.fault = s.fault) : step s = .next t.tick := by
  have hop := joinBytes_of_readyToRun h
  obtain ⟨hfault, hpc, -⟩ := h
  rw [step_exec hfault hpc, hop, hd, he, endCycle_tick (hf.trans hfault)]

theorem State.tick_dt_toNat (s : State) : s.tick.dt.toNat = s.dt.toNat - 1 :=
  tickTimer_toNat s.dt

theorem State.tick_st_toNat (s : State) : s.tick.st.toNat = s.st.toNat - 1 :=
  tickTimer_toNat s.st

theorem onlyPc_refl (s : State) : onlyPc s s := onlyPc_setPc s s.pc

/-! ## The lowest key that is down -/

theorem State.lowestKeyDown_eq_none {s : State} (h : ∀ k : Fin 16, s.key[k] = false) :
    s.lowestKeyDown = none := by
  rw [State.lowestKeyDown, List.findIdx?_eq_none_iff]
  intro down hd
  obtain ⟨k, hk, rfl⟩ := Vector.getElem_of_mem (Vector.mem_toList_iff.1 hd)
  exact h ⟨k, hk⟩

theorem State.lowestKeyDown_eq_some {s : State} {k : Fin 16} (hk : s.key[k] = true)
    (hlow : ∀ j : Fin 16, j < k → s.key[j] = false) : s.lowestKeyDown = some k.val := by
  rw [State.lowestKeyDown, List.findIdx?_eq_some_iff_getElem]
  refine ⟨by simp, by simpa using hk, fun j hj => ?_⟩
  simpa using hlow ⟨j, by omega⟩ hj

/-! ## The instructions -/

theorem exec_ldVxK_of_none (x : Reg) {s : State} (h : s.lowestKeyDown = none) :
    exec (.ldVxK x) s = .next (s.setPc (s.pc - 2)) := by
  simp [exec, execLdVxK, h]

theorem exec_ldVxK_of_some (x : Reg) {s : State} {k : Nat} (h : s.lowestKeyDown = some k) :
    exec (.ldVxK x) s = .next (s.setReg x (BitVec.ofNat 8 k)) := by
  simp [exec, execLdVxK, h]

theorem exec_ldVxDt (x : Reg) (s : State) : exec (.ldVxDt x) s = .next (s.setReg x s.dt) := rfl

theorem exec_ldDtVx (x : Reg) (s : State) : exec (.ldDtVx x) s = .next (s.setDt (s.reg x)) := rfl

theorem exec_ldStVx (x : Reg) (s : State) : exec (.ldStVx x) s = .next (s.setSt (s.reg x)) := rfl

/-- A CYCLE of `FX0A` with every key up is a tick: the wait takes back the pre-increment (R142). -/
theorem step_ldVxK_of_keys_up {x : Reg} {s : State} (h : readyToRun (.ldVxK x) s)
    (hup : ∀ k : Fin 16, s.key[k] = false) : step s = .next s.tick := by
  have he : exec (.ldVxK x) s.preIncrement = .next s.preIncrement.undoPreIncrement :=
    exec_ldVxK_of_none x (State.lowestKeyDown_eq_none hup)
  rw [State.undoPreIncrement_preIncrement] at he
  exact step_of_readyToRun h (decodeWord_packXKK_classF x decodeClassF_of_kk0A) he rfl

/-- A CYCLE of `FX07` reads DT before its own tick (R143). -/
theorem step_ldVxDt {x : Reg} {s : State} (h : readyToRun (.ldVxDt x) s) :
    step s = .next (s.preIncrement.setReg x s.dt).tick :=
  step_of_readyToRun h (decodeWord_packXKK_classF x decodeClassF_of_kk07) (exec_ldVxDt x _) rfl

/-- A CYCLE of `FX15` ticks the DT it has just written (R144). -/
theorem step_ldDtVx {x : Reg} {s : State} (h : readyToRun (.ldDtVx x) s) :
    step s = .next (s.preIncrement.setDt (s.reg x)).tick :=
  step_of_readyToRun h (decodeWord_packXKK_classF x decodeClassF_of_kk15) (exec_ldDtVx x _) rfl

/-- A CYCLE of `FX18` ticks the ST it has just written (R145). -/
theorem step_ldStVx {x : Reg} {s : State} (h : readyToRun (.ldStVx x) s) :
    step s = .next (s.preIncrement.setSt (s.reg x)).tick :=
  step_of_readyToRun h (decodeWord_packXKK_classF x decodeClassF_of_kk18) (exec_ldStVx x _) rfl

/-- Settles O45: a search of KEY that finds no key down writes PC only, and one that finds one
writes VX only; in the CYCLE the write of PC takes back the pre-increment, so the tick remains. -/
theorem keyWaitPolls : Obligations.KeyWaitPolls := by
  refine ⟨decodesAs_of_classF (by decide) (by decide) decodeClassF_of_kk0A, fun x s hup => ?_,
    fun x k s hk hlow => ?_, fun x s h hup => ?_⟩
  · exact ⟨_, exec_ldVxK_of_none x (State.lowestKeyDown_eq_none hup), onlyPc_setPc s _,
      s.setPc_pc _⟩
  · refine ⟨_, exec_ldVxK_of_some x (State.lowestKeyDown_eq_some hk hlow),
      onlyRegs_setReg s x _, ?_⟩
    rw [s.setReg_reg_same, BitVec.toNat_ofNat, Nat.mod_eq_of_lt (by omega)]
  · exact ⟨_, step_ldVxK_of_keys_up h hup, s.tick_dt_toNat, s.tick_st_toNat, rfl⟩

/-- Settles O46: `FX07` writes DT to VX, and the tick that ends its CYCLE keeps VX. -/
theorem readDelayTimer : Obligations.ReadDelayTimer := by
  refine ⟨decodesAs_of_classF (by decide) (by decide) decodeClassF_of_kk07, fun x s => ?_,
    fun x s h => ?_⟩
  · exact ⟨_, exec_ldVxDt x s, onlyRegs_setReg s x _, s.setReg_reg_same x _⟩
  · exact ⟨_, step_ldVxDt h, by rw [State.tick_reg, State.setReg_reg_same], State.tick_dt_toNat _⟩

/-- Settles O47: `FX15` and `FX18` are one write of DT and of ST, of the byte in VX, which the tick
that ends their CYCLE lowers by 1; with that timer put back, the state is the one before. -/
theorem setTimers : Obligations.SetTimers := by
  refine ⟨decodesAs_of_classF (by decide) (by decide) decodeClassF_of_kk15,
    decodesAs_of_classF (by decide) (by decide) decodeClassF_of_kk18, fun x s => ⟨?_, ?_⟩,
    fun x s h => ?_, fun x s h => ?_⟩
  · exact ⟨_, exec_ldDtVx x s, rfl, rfl, onlyPc_refl s, rfl⟩
  · exact ⟨_, exec_ldStVx x s, rfl, rfl, onlyPc_refl s, rfl⟩
  · exact ⟨_, step_ldDtVx h, State.tick_dt_toNat _⟩
  · exact ⟨_, step_ldStVx h, State.tick_st_toNat _⟩

end Sys2Proof.Machine
end

section
/-! PROOFS. What memory reads as inside and outside a range of bytes just written, the transaction
LOAD_ROM as one store of what fits, and from these its truncation (spec/70_reset_and_hazards.md
R182). -/

namespace Sys2Proof.Machine

/-- Inside the written range memory holds the bytes written, in their order (R42). -/
theorem Memory.getElem?_eq_read_writeBytes (m : Memory) (lo : Nat) {bs : List Byte} {k : Nat}
    (h : k < bs.length) : bs[k]? = some ((m.writeBytes lo bs).read (lo + k)) := by
  rw [Memory.read_writeBytes, dif_pos (by omega)]
  simp [h]

/-- Outside the written range memory is as before (R42). -/
theorem Memory.read_writeBytes_of_outside (m : Memory) {lo a : Nat} {bs : List Byte}
    (h : a < lo ∨ lo + bs.length ≤ a) : (m.writeBytes lo bs).read a = m.read a := by
  rw [Memory.read_writeBytes, dif_neg (by omega)]

/-- LOAD_ROM is one store, of the first 3584 bytes at most. -/
theorem transact_loadRom (bytes : List Byte) (s : State) :
    transact (.loadRom bytes) s =
      .next (s.storeBytes 0x200 (bytes.take 3584),
        .loaded (if 3584 < bytes.length then .warning else .ok)) := rfl

/-- Settles O49: LOAD_ROM stores the first `min L 3584` bytes, so MEM holds them from 0x200 and is
unchanged outside their range. -/
theorem loadRomTruncatesWithWarning : Obligations.LoadRomTruncatesWithWarning := by
  intro bytes s
  have hlen : (bytes.take 3584).length = min bytes.length 3584 := by
    rw [List.length_take, Nat.min_comm]
  refine ⟨_, transact_loadRom bytes s, rfl, fun k hk => ?_, fun a ha => ?_⟩
  · have hk3584 : k < 3584 := by omega
    rw [State.storeBytes_mem, ← List.getElem?_take_of_lt hk3584]
    exact s.mem.getElem?_eq_read_writeBytes 0x200 (hlen ▸ hk)
  · rw [State.storeBytes_mem]
    exact s.mem.read_writeBytes_of_outside (hlen ▸ ha)

end Sys2Proof.Machine
end

section
/-! PROOFS. Decoding and encoding as inverses, the agreement of the decoder with the opcode map, and
the NULL space (spec/30_encoding.md R60 to R66). -/

namespace Sys2Proof

/-! ## Packing the fields of an opcode gives it back (R61, R62) -/

theorem packNNN_fields {w : Word} {c : Nibble} (hc : (fieldClass w).toNat = c.toNat) :
    packNNN c (fieldNNN w) = w := by
  apply BitVec.eq_of_toNat_eq
  rw [fieldClass_toNat] at hc
  rw [packNNN_toNat, fieldNNN_toNat]
  omega

theorem packXKK_fields {w : Word} {c : Nibble} {kk : Byte} (hc : (fieldClass w).toNat = c.toNat)
    (hk : (fieldKK w).toNat = kk.toNat) : packXKK c (fieldX w) kk = w := by
  apply BitVec.eq_of_toNat_eq
  rw [fieldClass_toNat] at hc
  rw [fieldKK_toNat] at hk
  rw [packXKK_toNat, fieldX_val]
  omega

theorem packXYN_fields {w : Word} {c n : Nibble} (hc : (fieldClass w).toNat = c.toNat)
    (hn : (fieldN w).toNat = n.toNat) : packXYN c (fieldX w) (fieldY w) n = w := by
  apply BitVec.eq_of_toNat_eq
  rw [fieldClass_toNat] at hc
  rw [fieldN_toNat] at hn
  rw [packXYN_toNat, fieldX_val, fieldY_val]
  omega

/-! ## From an opcode to its instruction and back -/

/-- The instruction is one an opcode can give, and its opcode is `w`: no bit of `w` is lost. -/
def Instr.hasOpcode (i : Instr) (w : Word) : Prop := i.wellFormed = true ∧ encode i = w

theorem hasOpcode_null {w : Word} (h : isNullWord w = true) : (Instr.null w).hasOpcode w :=
  ⟨h, rfl⟩

/-- Classes 5 and 9 are NULL when N is not 0 (R66). -/
theorem isNullWord_of_n_ne_zero {w : Word}
    (hc : (fieldClass w).toNat = 0x5 ∨ (fieldClass w).toNat = 0x9) (hn : fieldN w ≠ 0) :
    isNullWord w = true := by
  rw [Ne, ← BitVec.toNat_inj] at hn
  rcases hc with hc | hc <;> simpa [isNullWord, ← fieldClass_toNat, ← fieldN_toNat, hc] using hn

theorem decodeClass0_hasOpcode {w : Word} (hc : (fieldClass w).toNat = 0x0) :
    (decodeClass0 w).hasOpcode w := by
  unfold decodeClass0
  split
  · next h => exact ⟨rfl, h.symm⟩
  · next hcls =>
    split
    · next h => exact ⟨rfl, h.symm⟩
    · next hret =>
      refine hasOpcode_null ?_
      simpa [isNullWord, ← fieldClass_toNat, hc] using ⟨hcls, hret⟩

theorem decodeClass8_hasOpcode {w : Word} (hc : (fieldClass w).toNat = 0x8) :
    (decodeClass8 w).hasOpcode w := by
  unfold decodeClass8
  split
  case h_10 =>
    have hlt := (fieldN w).isLt
    refine hasOpcode_null ?_
    simp only [imp_false] at *
    simp [isNullWord, ← fieldClass_toNat, ← fieldN_toNat, hc]
    omega
  all_goals exact ⟨rfl, packXYN_fields hc ‹_›⟩

theorem decodeClassE_hasOpcode {w : Word} (hc : (fieldClass w).toNat = 0xE) :
    (decodeClassE w).hasOpcode w := by
  unfold decodeClassE
  split
  · next hk => exact ⟨rfl, packXKK_fields hc hk⟩
  · next hk => exact ⟨rfl, packXKK_fields hc hk⟩
  · next hskp hsknp =>
    refine hasOpcode_null ?_
    simpa [isNullWord, ← fieldClass_toNat, ← fieldKK_toNat, hc] using ⟨hskp, hsknp⟩

theorem decodeClassF_hasOpcode {w : Word} (hc : (fieldClass w).toNat = 0xF) :
    (decodeClassF w).hasOpcode w := by
  unfold decodeClassF
  split
  case h_10 =>
    refine hasOpcode_null ?_
    simp only [imp_false] at *
    simp [isNullWord, ← fieldClass_toNat, ← fieldKK_toNat, hc]
    omega
  all_goals exact ⟨rfl, packXKK_fields hc ‹_›⟩

/-- Every opcode is that of the instruction it decodes to.  Branch `h_k` of the decoder is class
k - 1. -/
theorem decodeWord_hasOpcode (w : Word) : (decodeWord w).hasOpcode w := by
  unfold decodeWord
  split
  case h_1 hc => exact decodeClass0_hasOpcode hc
  case h_6 hc =>
    split
    · next hn => exact ⟨rfl, packXYN_fields hc (congrArg BitVec.toNat hn)⟩
    · next hn => exact hasOpcode_null (isNullWord_of_n_ne_zero (.inl hc) hn)
  case h_9 hc => exact decodeClass8_hasOpcode hc
  case h_10 hc =>
    split
    · next hn => exact ⟨rfl, packXYN_fields hc (congrArg BitVec.toNat hn)⟩
    · next hn => exact hasOpcode_null (isNullWord_of_n_ne_zero (.inr hc) hn)
  case h_14 hc => exact ⟨rfl, packXYN_fields hc rfl⟩
  case h_15 hc => exact decodeClassE_hasOpcode hc
  case h_16 =>
    have hlt := (fieldClass w).isLt
    simp only [imp_false] at *
    exact decodeClassF_hasOpcode (by omega)
  case h_2 hc | h_3 hc | h_11 hc | h_12 hc => exact ⟨rfl, packNNN_fields hc⟩
  case h_4 hc | h_5 hc | h_7 hc | h_8 hc | h_13 hc => exact ⟨rfl, packXKK_fields hc rfl⟩

theorem Instr.pattern_eq_NULL_iff (i : Instr) : i.pattern = "NULL" ↔ ∃ w, i = .null w := by
  cases i <;> simp [Instr.pattern]

open Laws.EncodingInRow in
/-- Every instruction's opcode selects the row of its pattern (R65). -/
theorem encodingInRow : ∀ i : Instr, Laws.EncodingInRow.Statement i
  | .cls => cls
  | .ret => ret
  | .jp nnn => jp nnn
  | .call nnn => call nnn
  | .seImm x kk => seImm x kk
  | .sneImm x kk => sneImm x kk
  | .seReg x y => seReg x y
  | .ldImm x kk => ldImm x kk
  | .addImm x kk => addImm x kk
  | .ldReg x y => ldReg x y
  | .orReg x y => orReg x y
  | .andReg x y => andReg x y
  | .xorReg x y => xorReg x y
  | .addReg x y => addReg x y
  | .subReg x y => subReg x y
  | .shr x y => shr x y
  | .subnReg x y => subnReg x y
  | .shl x y => shl x y
  | .sneReg x y => sneReg x y
  | .ldI nnn => ldI nnn
  | .jpV0 nnn => jpV0 nnn
  | .rnd x kk => rnd x kk
  | .drw x y n => drw x y n
  | .skp x => skp x
  | .sknp x => sknp x
  | .ldVxDt x => ldVxDt x
  | .ldVxK x => ldVxK x
  | .ldDtVx x => ldDtVx x
  | .ldStVx x => ldStVx x
  | .addI x => addI x
  | .ldF x => ldF x
  | .ldB x => ldB x
  | .stRegs x => stRegs x
  | .ldRegs x => ldRegs x
  | .null w => null w

/-- The decoder names the row of the opcode map that the opcode selects (R65). -/
theorem pattern_decodeWord (w : Word) : (decodeWord w).pattern = rowName w := by
  obtain ⟨hwf, hw⟩ := decodeWord_hasOpcode w
  rw [← encodingInRow _ hwf, hw]

theorem decodeWord_of_isNullWord {w : Word} (h : isNullWord w = true) : decodeWord w = .null w := by
  have hrow : rowName w = "NULL" := encodingInRow (.null w) h
  obtain ⟨v, hv⟩ := (Instr.pattern_eq_NULL_iff _).1 ((pattern_decodeWord w).trans hrow)
  have hvw : v = w := by simpa [hv, encode] using (decodeWord_hasOpcode w).2
  rw [hv, hvw]

/-! ## From an instruction to its opcode and back -/

theorem decodeWord_encode {i : Instr} (h : i.wellFormed = true) : decodeWord (encode i) = i := by
  cases i
  case null w => exact decodeWord_of_isNullWord h
  case cls | ret => decide
  all_goals simp [encode, decodeWord, decodeClass8, decodeClassE, decodeClassF]

/-- Decoding the two bytes of an opcode at the head of a list decodes the opcode (R60). -/
theorem decode_bytes (w : Word) (rest : List Byte) :
    decode (highByte w :: lowByte w :: rest) = .ok (decodeWord w, rest) := by
  rw [decode, joinBytes_highByte_lowByte]

/-! ## The opcode map has no overlap (R65) -/

/-- Any two rows disagree on a bit that both masks cover. -/
theorem opcodeRows_disjoint :
    opcodeRows.Pairwise (fun r r' => r.pat &&& r'.mask ≠ r'.pat &&& r.mask) := by decide

/-- An opcode selects only rows that agree where both masks cover. -/
theorem OpcodeRow.pat_and_mask_comm {r r' : OpcodeRow} {w : Word} (h : r.selects w = true)
    (h' : r'.selects w = true) : r.pat &&& r'.mask = r'.pat &&& r.mask := by
  have hr : w &&& r.mask = r.pat := by simpa [OpcodeRow.selects] using h
  have hr' : w &&& r'.mask = r'.pat := by simpa [OpcodeRow.selects] using h'
  rw [← hr, ← hr', BitVec.and_assoc, BitVec.and_comm r.mask, ← BitVec.and_assoc]

theorem length_selected_le_one (w : Word) :
    (opcodeRows.filter (fun r => r.selects w)).length ≤ 1 := by
  have hsel : ∀ r ∈ opcodeRows.filter (fun r => r.selects w), r.selects w = true :=
    fun _ hr => (List.mem_filter.1 hr).2
  have hdisj := opcodeRows_disjoint.filter (fun r => r.selects w)
  generalize opcodeRows.filter (fun r => r.selects w) = rows at hsel hdisj
  match rows with
  | [] | [_] => simp
  | r :: r' :: _ =>
    have hne := (List.pairwise_cons.1 hdisj).1 r' (by simp)
    exact absurd (OpcodeRow.pat_and_mask_comm (hsel r (by simp)) (hsel r' (by simp))) hne

/-! ## The obligations -/

/-- Settles O1: the fields packed into an opcode are read back from it, and a word of the NULL space
selects no row. -/
theorem decodeInvertsEncode : Obligations.DecodeInvertsEncode := by
  intro i h
  have hdec := decodeWord_encode h
  exact ⟨hdec, fun rest => (decode_bytes (encode i) rest).trans (by rw [hdec])⟩

/-- Settles O2, by the branches of the decoder: each packs the fields it read. -/
theorem encodeInvertsDecode : Obligations.EncodeInvertsDecode := decodeWord_hasOpcode

/-- Settles O3: an opcode is that of the instruction it decodes to, whose opcode selects the row of
its pattern; and no two rows of the map overlap. -/
theorem decoderAgreesWithOpcodeMap : Obligations.DecoderAgreesWithOpcodeMap :=
  fun w => ⟨pattern_decodeWord w, length_selected_le_one w⟩

/-- Settles O4: a NULL that a word decodes to is well formed and carries that word. -/
theorem nullSpaceIsTheTable : Obligations.NullSpaceIsTheTable := by
  intro w
  rw [Instr.pattern_eq_NULL_iff]
  constructor
  · rintro ⟨v, hv⟩
    obtain ⟨hwf, hvw⟩ := hv ▸ decodeWord_hasOpcode w
    exact hvw ▸ hwf
  · exact fun h => ⟨w, decodeWord_of_isNullWord h⟩

/-- Settles O5, by evaluating the decoder. -/
theorem spotCheckedWordsDecode : Obligations.SpotCheckedWordsDecode := by
  unfold Obligations.SpotCheckedWordsDecode
  decide

end Sys2Proof
end

section
/-! PROOFS. What every instruction does, said once for all 35: the fault the table of R160 gives it
(`raises`, spec/60_exceptions.md), or else its effect on the state (spec/40_cycle.md R83, R87). -/

namespace Sys2Proof.Machine

/-! ## The effect of an instruction that raises no fault -/

/-- The state an instruction leaves when it raises no fault: what `exec` does, its checks apart. -/
def effect (i : Instr) (s : State) : State :=
  match i with
  | .cls => s.setDisp []
  | .ret => (s.setStack s.stack ⟨s.sp.val - 1, by omega⟩).setPc
      (s.stack[s.sp.val - 1]'(by have := s.sp.isLt; omega))
  | .jp nnn => s.setPc (zext12 nnn)
  | .call nnn => (s.setStack (s.stack.setIfInBounds s.sp.val s.pc) (s.sp + 1)).setPc (zext12 nnn)
  | .seImm x kk => s.skipIf (s.reg x == kk)
  | .sneImm x kk => s.skipIf (s.reg x != kk)
  | .seReg x y => s.skipIf (s.reg x == s.reg y)
  | .ldImm x kk => s.setReg x kk
  | .addImm x kk => s.setReg x (s.reg x + kk)
  | .ldReg x y => s.setReg x (s.reg y)
  | .orReg x y => s.setReg x (s.reg x ||| s.reg y)
  | .andReg x y => s.setReg x (s.reg x &&& s.reg y)
  | .xorReg x y => s.setReg x (s.reg x ^^^ s.reg y)
  | .addReg x y => s.setResultThenFlag x (s.reg x + s.reg y) (carryOut (s.reg x) (s.reg y))
  | .subReg x y => s.setFlagThenResult x (s.reg x - s.reg y) (strictlyGreater (s.reg x) (s.reg y))
  | .shr x _ => s.setFlagThenResult x (s.reg x >>> 1) (lowBitOut (s.reg x))
  | .subnReg x y => s.setFlagThenResult x (s.reg y - s.reg x) (strictlyGreater (s.reg y) (s.reg x))
  | .shl x _ => s.setFlagThenResult x (s.reg x <<< 1) (highBitOut (s.reg x))
  | .sneReg x y => s.skipIf (s.reg x != s.reg y)
  | .ldI nnn => s.setI (zext12 nnn)
  | .jpV0 nnn => s.setPc (offsetTarget nnn (s.reg regV0))
  | .rnd x kk => s.consumeRnd.setReg x (s.rndByte &&& kk)
  | .drw x y n => s.drawSprite (s.reg x) (s.reg y) (s.loadBytes s.baseAddr n.toNat)
  | .skp x => s.skipIf (s.keyAt (s.reg x) == some true)
  | .sknp x => s.skipIf (s.keyAt (s.reg x) == some false)
  | .ldVxDt x => s.setReg x s.dt
  | .ldVxK x => s.lowestKeyDown.elim (s.setPc (s.pc - 2)) (fun k => s.setReg x (BitVec.ofNat 8 k))
  | .ldDtVx x => s.setDt (s.reg x)
  | .ldStVx x => s.setSt (s.reg x)
  | .addI x => s.setI (s.i + zext8 (s.reg x))
  | .ldF x => s.setI (glyphAddr (s.reg x))
  | .ldB x => s.storeBytes s.baseAddr (bcdDigits (s.reg x))
  | .stRegs x => s.storeBytes s.baseAddr (s.firstRegs x.val)
  | .ldRegs x => s.setFirstRegs (s.loadBytes s.baseAddr x.val)
  | .null _ => s

/-- The instruction raises no fault in the state (R160). -/
def quiet (i : Instr) (s : State) : Prop := ∀ f, ¬raises i s f

/-! ## When the instructions that can fault do not -/

theorem quiet_ret {s : State} : quiet .ret s ↔ s.sp.val ≠ 0 := by
  simp [quiet, raises]

theorem quiet_call {nnn : Addr12} {s : State} : quiet (.call nnn) s ↔ s.sp.val < 16 := by
  have hlt := s.sp.isLt
  constructor
  · intro h
    have hne : s.sp.val ≠ 16 := fun e => h .stackOverflow ⟨Fin.ext e, rfl⟩
    omega
  · rintro h f ⟨e, -⟩
    exact absurd (congrArg Fin.val e) (Nat.ne_of_lt h)

/-- The condition of a MemoryFault over a range does not hold when the range is empty or in MEM
(R43). -/
theorem forall_not_rangeFault_iff {lo n : Nat} {g : Fault} :
    (∀ f, ¬(0 < n ∧ 4095 < lo + n - 1 ∧ f = g)) ↔ n = 0 ∨ lo + n ≤ 4096 := by
  constructor
  · intro h
    by_contra hn
    exact h g ⟨by omega, by omega, rfl⟩
  · rintro h f ⟨hn, hlo, -⟩
    omega

theorem quiet_drw {x y : Reg} {n : Nibble} {s : State} :
    quiet (.drw x y n) s ↔ n.toNat = 0 ∨ s.baseAddr + n.toNat ≤ 4096 := forall_not_rangeFault_iff

theorem quiet_stRegs {x : Reg} {s : State} :
    quiet (.stRegs x) s ↔ x.val = 0 ∨ s.baseAddr + x.val ≤ 4096 := forall_not_rangeFault_iff

theorem quiet_ldRegs {x : Reg} {s : State} :
    quiet (.ldRegs x) s ↔ x.val = 0 ∨ s.baseAddr + x.val ≤ 4096 := forall_not_rangeFault_iff

theorem quiet_ldB {x : Reg} {s : State} : quiet (.ldB x) s ↔ s.baseAddr ≤ 4093 := by
  simp [quiet, raises, State.baseAddr]

theorem quiet_skp {x : Reg} {s : State} : quiet (.skp x) s ↔ (s.reg x).toNat < 16 := by
  simp [quiet, raises]
  omega

theorem quiet_sknp {x : Reg} {s : State} : quiet (.sknp x) s ↔ (s.reg x).toNat < 16 :=
  quiet_skp

theorem State.keyAt_of_lt {s : State} {vx : Byte} (h : vx.toNat < 16) :
    s.keyAt vx = some s.key[vx.toNat] := by
  simp [State.keyAt, h]

theorem State.keyAt_of_ge {s : State} {vx : Byte} (h : 15 < vx.toNat) : s.keyAt vx = none := by
  simp [State.keyAt]
  omega

/-- Below 16 the next value of SP does not wrap (R17). -/
theorem succ_sp_of_lt {k : Fin 17} (h : k.val < 16) : (⟨k.val + 1, by omega⟩ : Fin 17) = k + 1 := by
  apply Fin.ext
  simp [Fin.val_add]
  omega

theorem setIfInBounds_of_lt {n k : Nat} {v : Vector Word n} {a : Word} (h : k < n) :
    v.setIfInBounds k a = v.set k a h := by
  ext j hj
  simp [Vector.getElem_set, Vector.getElem_setIfInBounds]

/-! ## The two things an instruction can do -/

/-- An instruction that raises no fault answers its effect (R83). -/
theorem exec_of_quiet {i : Instr} {s : State} (h : quiet i s) :
    exec i s = .next (effect i s) := by
  cases i
  case ret => simp [exec, execRet, effect, s.popReturn_of_pos (quiet_ret.1 h)]
  case call nnn =>
    have hsp := quiet_call.1 h
    simp [exec, execCall, effect, s.pushReturn_of_lt _ hsp, succ_sp_of_lt hsp,
      setIfInBounds_of_lt hsp]
  case drw => exact guardRange_ok _ _ (quiet_drw.1 h)
  case ldB => exact guardRange_ok _ _ (.inr (Nat.add_le_add_right (quiet_ldB.1 h) 3))
  case stRegs => exact guardRange_ok _ _ (quiet_stRegs.1 h)
  case ldRegs => exact guardRange_ok _ _ (quiet_ldRegs.1 h)
  case skp => simp [exec, execSkp, effect, State.keyAt_of_lt (quiet_skp.1 h)]
  case sknp => simp [exec, execSknp, effect, State.keyAt_of_lt (quiet_sknp.1 h)]
  case ldVxK => cases hk : s.lowestKeyDown <;> simp [exec, execLdVxK, effect, hk]
  all_goals rfl

/-- An access raises the fault the table gives for its range (R43, R160). -/
theorem guardRange_of_rangeFault {kind : AccessKind} {lo n : Nat} {s t : State} {f : Fault}
    (h : 0 < n ∧ 4095 < lo + n - 1 ∧ f = .memoryFault kind (max lo 4096)) :
    guardRange kind lo n s t = raiseFault f s := by
  obtain ⟨hn, hlo, rfl⟩ := h
  exact guardRange_fault s t ⟨hn, by omega⟩

/-- An instruction that raises a fault takes it (R87, R166). -/
theorem exec_of_raises {i : Instr} {s : State} {f : Fault} (h : raises i s f) :
    exec i s = raiseFault f s := by
  cases i
  case ret =>
    obtain ⟨hsp, rfl⟩ := h
    simp [exec, execRet, s.popReturn_empty (congrArg Fin.val hsp)]
  case call =>
    obtain ⟨hsp, rfl⟩ := h
    simp [exec, execCall, s.pushReturn_full _ (congrArg Fin.val hsp)]
  case drw | stRegs | ldRegs => exact guardRange_of_rangeFault h
  case ldB =>
    obtain ⟨hi, rfl⟩ := h
    exact guardRange_of_rangeFault ⟨by decide, by simp only [State.baseAddr]; omega, rfl⟩
  case skp =>
    obtain ⟨hx, rfl⟩ := h
    simp [exec, execSkp, State.keyAt_of_ge hx]
  case sknp =>
    obtain ⟨hx, rfl⟩ := h
    simp [exec, execSknp, State.keyAt_of_ge hx]
  all_goals exact h.elim

/-! ## Which instruction writes which element (R27) -/

/-- The key wait writes PC or VX (R142). -/
theorem effect_ldVxK (x : Reg) (s : State) :
    effect (.ldVxK x) s = s.setPc (s.pc - 2) ∨ ∃ b, effect (.ldVxK x) s = s.setReg x b := by
  simp only [effect]
  cases s.lowestKeyDown with
  | none => exact .inl rfl
  | some k => exact .inr ⟨_, rfl⟩

theorem effect_fault (i : Instr) (s : State) : (effect i s).fault = s.fault := by
  cases i
  case ldVxK x => rcases effect_ldVxK x s with h | ⟨b, h⟩ <;> simp [h]
  all_goals simp [effect]

theorem effect_key (i : Instr) (s : State) : (effect i s).key = s.key := by
  cases i
  case ldVxK x => rcases effect_ldVxK x s with h | ⟨b, h⟩ <;> simp [h]
  all_goals simp [effect]

theorem effect_i (i : Instr) (s : State) : (effect i s).i = s.i ∨
    (∃ a, i = .ldI a) ∨ (∃ x, i = .addI x) ∨ ∃ x, i = .ldF x := by
  cases i
  case ldVxK x => rcases effect_ldVxK x s with h | ⟨b, h⟩ <;> simp [h]
  all_goals simp [effect]

theorem effect_stack (i : Instr) (s : State) : sameStack s (effect i s) ∨
    i = .ret ∨ ∃ a, i = .call a := by
  cases i
  case ldVxK x => rcases effect_ldVxK x s with h | ⟨b, h⟩ <;> simp [h, sameStack]
  all_goals simp [effect, sameStack]

theorem effect_dt (i : Instr) (s : State) : (effect i s).dt = s.dt ∨ ∃ x, i = .ldDtVx x := by
  cases i
  case ldVxK x => rcases effect_ldVxK x s with h | ⟨b, h⟩ <;> simp [h]
  all_goals simp [effect]

theorem effect_st (i : Instr) (s : State) : (effect i s).st = s.st ∨ ∃ x, i = .ldStVx x := by
  cases i
  case ldVxK x => rcases effect_ldVxK x s with h | ⟨b, h⟩ <;> simp [h]
  all_goals simp [effect]

theorem effect_mem (i : Instr) (s : State) : (effect i s).mem = s.mem ∨
    (∃ x, i = .ldB x) ∨ ∃ x, i = .stRegs x := by
  cases i
  case ldVxK x => rcases effect_ldVxK x s with h | ⟨b, h⟩ <;> simp [h]
  all_goals simp [effect]

theorem effect_disp (i : Instr) (s : State) : (effect i s).disp = s.disp ∨
    i = .cls ∨ ∃ x y n, i = .drw x y n := by
  cases i
  case ldVxK x => rcases effect_ldVxK x s with h | ⟨b, h⟩ <;> simp [h]
  all_goals simp [effect]

theorem effect_rnd (i : Instr) (s : State) : sameRnd s (effect i s) ∨ ∃ x kk, i = .rnd x kk := by
  cases i
  case ldVxK x => rcases effect_ldVxK x s with h | ⟨b, h⟩ <;> simp [h, sameRnd]
  all_goals simp [effect, sameRnd]

theorem sameRegsBut_setFlagThenResult (s : State) (x : Reg) (r : Byte) (c : Bool) :
    sameRegsBut [x, 15] s (s.setFlagThenResult x r c) := by
  intro q hq
  obtain ⟨hx, hf⟩ : q ≠ x ∧ q ≠ 15 := by simpa using hq
  exact s.setFlagThenResult_reg_other x r c hx hf

theorem sameRegsBut_drawSprite (s : State) (vx vy : Byte) (rows : List Byte) :
    sameRegsBut [15] s (s.drawSprite vx vy rows) :=
  fun _ hr => s.drawSprite_reg_other vx vy rows (List.ne_of_not_mem_cons hr)

/-- Loading `n` bytes into the registers writes those below V[n] only (R125). -/
theorem sameRegsBut_setFirstRegs (s : State) {x : Reg} {bs : List Byte} (h : bs.length = x.val) :
    sameRegsBut ((List.finRange 16).filter (fun r => r < x)) s (s.setFirstRegs bs) := by
  intro r hr
  have hle : ¬r.val < bs.length := by simpa [h] using hr
  rw [State.setFirstRegs_reg, dif_neg hle]

theorem effect_regs (i : Instr) (s : State) : sameRegsBut (regsWritten i) s (effect i s) := by
  cases i
  case ldImm | addImm | ldReg | orReg | andReg | xorReg | ldVxDt => exact sameRegsBut_setReg s _ _
  case addReg => exact sameRegsBut_setResultThenFlag s _ _ _
  case subReg | shr | subnReg | shl => exact sameRegsBut_setFlagThenResult s _ _ _
  case drw => exact sameRegsBut_drawSprite s _ _ _
  case ldRegs => exact sameRegsBut_setFirstRegs s (Memory.length_readBytes _ _ _)
  case rnd =>
    intro r hr
    rw [← s.consumeRnd_reg r]
    exact sameRegsBut_setReg s.consumeRnd _ _ r hr
  case ldVxK x =>
    rcases effect_ldVxK x s with h | ⟨b, h⟩ <;> rw [h]
    · exact fun _ _ => rfl
    · exact sameRegsBut_setReg s x b
  all_goals
    intro r _
    simp [effect]

/-- A call writes the entry at SP and no other (R92). -/
theorem effect_call_stack (nnn : Addr12) (s : State) (k : Fin 16) :
    (effect (.call nnn) s).stack[k] = if k.val = s.sp.val then s.pc else s.stack[k] := by
  simp [effect, Vector.getElem_setIfInBounds, eq_comm]

/-! ## PC (R15) -/

/-- A skip after the pre-increment, by numbers: an address of an instruction leaves room for it. -/
theorem skipIf_preIncrement_pc {s : State} (h : s.pc.toNat ≤ 4094) (c : Bool) :
    (s.preIncrement.skipIf c).pc.toNat =
      if some c = some true then s.pc.toNat + 4 else s.pc.toNat + 2 := by
  cases c <;> simp <;> bv_omega

theorem offsetTarget_toNat (nnn : Addr12) (b : Byte) :
    (offsetTarget nnn b).toNat = nnn.toNat + b.toNat := by
  simp [offsetTarget]
  omega

theorem preIncrement_pc_toNat {s : State} (h : s.pc.toNat ≤ 4094) :
    s.preIncrement.pc.toNat = s.pc.toNat + 2 := by
  simp
  omega

theorem lowestKeyDown_isNone (s : State) :
    s.lowestKeyDown.isNone = s.key.toList.all (fun down => !down) := by
  simp [State.lowestKeyDown, List.findIdx?_isNone]

theorem effect_pc (i : Instr) {s : State} (h : s.pc.toNat ≤ 4094) :
    (effect i s.preIncrement).pc.toNat = pcAfter i s s.pc.toNat := by
  cases i
  case jp | call => simp [effect, pcAfter]
  case jpV0 => simp [effect, pcAfter, offsetTarget_toNat]
  case ret => simp [effect, pcAfter]
  case ldVxK x =>
    simp only [effect, pcAfter]
    rw [← lowestKeyDown_isNone, show s.preIncrement.lowestKeyDown = s.lowestKeyDown from rfl]
    cases s.lowestKeyDown with
    | none => simp
    | some k => simp; omega
  case skp | sknp => exact skipIf_preIncrement_pc h _
  case seImm | sneImm | seReg | sneReg =>
    simp only [effect, pcAfter, skipIf_preIncrement_pc h, skipCondition]
    simp [BitVec.toNat_inj]
  all_goals
    simp [effect, pcAfter, skipCondition]
    omega

end Sys2Proof.Machine
end

section
/-! PROOFS. What a CYCLE does, said once (spec/40_cycle.md R80): the fault of the fetch or of the
executed instruction, or else the instruction's effect and the tick.  From it PC after every CYCLE,
NULL, the end of a program, and the rules of the FAULT latch (spec/60_exceptions.md). -/

namespace Sys2Proof.Machine

/-! ## An instruction in the state its CYCLE began in -/

/-- A fault condition looks at I, SP and the registers only (R160). -/
theorem raises_congr {s t : State} (hi : t.i = s.i) (hsp : t.sp = s.sp)
    (hreg : ∀ x, t.reg x = s.reg x) (i : Instr) (f : Fault) : raises i t f = raises i s f := by
  cases i <;> simp only [raises, hi, hsp, hreg]

/-- So it can be asked before the pre-increment (R82). -/
theorem raises_preIncrement (i : Instr) (s : State) (f : Fault) :
    raises i s.preIncrement f = raises i s f :=
  raises_congr rfl rfl (fun _ => rfl) i f

theorem quiet_preIncrement {i : Instr} {s : State} : quiet i s.preIncrement ↔ quiet i s := by
  simp only [quiet, raises_preIncrement]

/-- A fault raised after the pre-increment undoes it (R166). -/
theorem exec_preIncrement_of_raises {i : Instr} {s : State} {f : Fault} (h : raises i s f) :
    exec i s.preIncrement = .next (s.setFault f) := by
  rw [exec_of_raises ((raises_preIncrement i s f).mpr h), raiseFault_preIncrement]

theorem exec_preIncrement_of_quiet {i : Instr} {s : State} (h : quiet i s) :
    exec i s.preIncrement = .next (effect i s.preIncrement) :=
  exec_of_quiet (quiet_preIncrement.2 h)

theorem raises_or_quiet (i : Instr) (s : State) : (∃ f, raises i s f) ∨ quiet i s := by
  rw [quiet, ← not_exists]
  exact Classical.em _

/-- Every instruction answers a next state: the fault's or its effect (R67, R166). -/
theorem exec_answers_next (i : Instr) (s : State) : ∃ t, exec i s = .next t := by
  rcases raises_or_quiet i s with ⟨f, hf⟩ | hq
  · exact ⟨_, exec_of_raises hf⟩
  · exact ⟨_, exec_of_quiet hq⟩

/-- The states an instruction can answer: the one before the pre-increment with the fault of the
table latched, or its effect. -/
theorem exec_next_cases {i : Instr} {s t : State} (h : exec i s = .next t) :
    (∃ f, raises i s f ∧ t = s.undoPreIncrement.setFault f) ∨ (quiet i s ∧ t = effect i s) := by
  rcases raises_or_quiet i s with ⟨f, hf⟩ | hq
  · rw [exec_of_raises hf] at h
    exact .inl ⟨f, hf, (Host.Outcome.next.inj h).symm⟩
  · rw [exec_of_quiet hq] at h
    exact .inr ⟨hq, (Host.Outcome.next.inj h).symm⟩

/-! ## The instruction a CYCLE executes -/

theorem opcodeAt_eq_joinBytes (s : State) :
    opcodeAt s = joinBytes (s.mem.read s.pc.toNat) (s.mem.read (s.pc.toNat + 1)) := by
  apply BitVec.eq_of_toNat_eq
  have hlt := (joinBytes (s.mem.read s.pc.toNat) (s.mem.read (s.pc.toNat + 1))).isLt
  rw [joinBytes_toNat] at hlt ⊢
  rw [opcodeAt, BitVec.toNat_ofNat, Nat.mod_eq_of_lt hlt]

/-- The next CYCLE fetches without a fault and executes `i` (R80, R81). -/
def executes (i : Instr) (s : State) : Prop :=
  s.fault = none ∧ s.pc.toNat ≤ 4094 ∧ decodeWord (opcodeAt s) = i

theorem executes_of_readyToRun {i : Instr} {s : State} (hwf : i.wellFormed = true)
    (h : readyToRun i s) : executes i s := by
  have hop := joinBytes_of_readyToRun h
  obtain ⟨hf, hpc, -⟩ := h
  exact ⟨hf, hpc, by rw [opcodeAt_eq_joinBytes, hop, decodeWord_encode hwf]⟩

theorem step_of_executes {i : Instr} {s : State} (h : executes i s) :
    step s = endCycle (exec i s.preIncrement) := by
  obtain ⟨hf, hpc, hi⟩ := h
  rw [step_exec hf hpc, ← opcodeAt_eq_joinBytes, hi]

/-- A CYCLE whose instruction raises a fault sets the latch and changes nothing else (R166). -/
theorem step_of_raises {i : Instr} {s : State} {f : Fault} (h : executes i s)
    (hr : raises i s f) : step s = .next (s.setFault f) := by
  rw [step_of_executes h, exec_preIncrement_of_raises hr, endCycle_fault (by simp)]

theorem effect_preIncrement_fault {i : Instr} {s : State} (h : executes i s) :
    (effect i s.preIncrement).fault = none := by
  rw [effect_fault, State.preIncrement_fault, h.1]

/-- A CYCLE whose instruction raises no fault is its effect, then the tick (R82 to R84). -/
theorem step_of_quiet {i : Instr} {s : State} (h : executes i s) (hq : quiet i s) :
    step s = .next (effect i s.preIncrement).tick := by
  rw [step_of_executes h, exec_preIncrement_of_quiet hq,
    endCycle_tick (effect_preIncrement_fault h)]

/-! ## A CYCLE that begins without a fault -/

/-- The fault a CYCLE raises: the fetch's, or that of the instruction at PC (R160). -/
def cycleRaises (s : State) (f : Fault) : Prop :=
  (4094 < s.pc.toNat ∧ f = .memoryFault .fetch (max s.pc.toNat 4096)) ∨
  (s.pc.toNat ≤ 4094 ∧ raises (decodeWord (opcodeAt s)) s f)

theorem step_of_cycleRaises {s : State} {f : Fault} (h : s.fault = none) (hr : cycleRaises s f) :
    step s = .next (s.setFault f) := by
  rcases hr with ⟨hpc, rfl⟩ | ⟨hpc, hr⟩
  · exact step_fetch_fault h hpc
  · exact step_of_raises ⟨h, hpc, rfl⟩ hr

/-- A CYCLE that raises no fault executes an instruction that raises none. -/
theorem executes_quiet_of_not_cycleRaises {s : State} (h : s.fault = none)
    (hr : ∀ f, ¬cycleRaises s f) : ∃ i, executes i s ∧ quiet i s := by
  have hpc : s.pc.toNat ≤ 4094 := by
    by_contra hlt
    exact hr _ (.inl ⟨by omega, rfl⟩)
  exact ⟨_, ⟨h, hpc, rfl⟩, fun f hf => hr f (.inr ⟨hpc, hf⟩)⟩

/-- The two things a CYCLE does that begins without a fault: raise one, which is all it changes, or
execute an instruction that raises none. -/
theorem step_faultless_cases {s : State} (h : s.fault = none) :
    (∃ f, cycleRaises s f ∧ step s = .next (s.setFault f)) ∨
    ((∀ f, ¬cycleRaises s f) ∧ ∃ i, executes i s ∧ quiet i s ∧
      step s = .next (effect i s.preIncrement).tick) := by
  by_cases hr : ∃ f, cycleRaises s f
  · obtain ⟨f, hf⟩ := hr
    exact .inl ⟨f, hf, step_of_cycleRaises h hf⟩
  · have hr' := not_exists.mp hr
    obtain ⟨i, hi, hq⟩ := executes_quiet_of_not_cycleRaises h hr'
    exact .inr ⟨hr', i, hi, hq, step_of_quiet hi hq⟩

/-- Every CYCLE answers a next state (R80). -/
theorem step_answers_next (s : State) : ∃ t, step s = .next t := by
  cases h : s.fault with
  | some f => exact ⟨_, step_latched h⟩
  | none =>
    rcases step_faultless_cases h with ⟨f, -, hs⟩ | ⟨-, i, -, -, hs⟩
    · exact ⟨_, hs⟩
    · exact ⟨_, hs⟩

/-- The states a CYCLE can answer: the same one while the latch is set, one with the latch set and
nothing else changed, or the effect of the instruction at PC and the tick. -/
theorem step_next_cases {s t : State} (h : step s = .next t) :
    (s.fault ≠ none ∧ t = s) ∨
    (s.fault = none ∧ ∃ f, cycleRaises s f ∧ t = s.setFault f) ∨
    ((∀ f, ¬cycleRaises s f) ∧ ∃ i, executes i s ∧ quiet i s ∧
      t = (effect i s.preIncrement).tick) := by
  cases hs : s.fault with
  | some f =>
    rw [step_latched hs] at h
    exact .inl ⟨by simp, (Host.Outcome.next.inj h).symm⟩
  | none =>
    rcases step_faultless_cases hs with ⟨f, hf, he⟩ | ⟨hr, i, hi, hq, he⟩ <;> rw [he] at h
    · exact .inr (.inl ⟨rfl, f, hf, (Host.Outcome.next.inj h).symm⟩)
    · exact .inr (.inr ⟨hr, i, hi, hq, (Host.Outcome.next.inj h).symm⟩)

/-! ## The obligations -/

/-- Settles O7: an instruction raises a fault, which is taken, or has its effect; a CYCLE does that,
takes the fault of the fetch, or stays faulted. -/
theorem everyStepAnswersNext : Obligations.EveryStepAnswersNext :=
  ⟨exec_answers_next, step_answers_next⟩

/-- Settles O6: the instruction at PC takes its fault, which ends the CYCLE, or has its effect,
which the tick follows. -/
theorem stepRunsDecodedInstruction : Obligations.StepRunsDecodedInstruction := by
  intro i s hwf hready
  have hi := executes_of_readyToRun hwf hready
  rcases raises_or_quiet i s with ⟨f, hf⟩ | hq
  · exact ⟨_, exec_preIncrement_of_raises hf, fun h => by simp at h,
      fun _ => step_of_raises hi hf⟩
  · exact ⟨_, exec_preIncrement_of_quiet hq,
      fun _ => ⟨_, step_of_quiet hi hq, rfl, State.tick_dt_toNat _, State.tick_st_toNat _⟩,
      fun h => absurd (effect_preIncrement_fault hi) h⟩

/-- Settles O8: a fault leaves PC at the instruction, an effect where the table says, and the tick
leaves PC alone. -/
theorem pcAfterEveryCycle : Obligations.PcAfterEveryCycle := by
  intro i s hwf hready
  have hi := executes_of_readyToRun hwf hready
  rcases raises_or_quiet i s with ⟨f, hf⟩ | hq
  · exact ⟨_, step_of_raises hi hf, fun h => by simp at h, fun _ => rfl⟩
  · refine ⟨_, step_of_quiet hi hq, fun _ => effect_pc i hi.2.1, fun h => ?_⟩
    exact absurd (effect_preIncrement_fault hi) h

/-- Settles O9: NULL has no effect, so its CYCLE is the pre-increment and the tick. -/
theorem nullOnlyAdvances : Obligations.NullOnlyAdvances := by
  refine ⟨fun w s => ⟨s, rfl, rfl⟩, fun s hf hpc hnull => ?_⟩
  have hi : executes (.null (opcodeAt s)) s := ⟨hf, hpc, decodeWord_of_isNullWord hnull⟩
  refine ⟨_, step_of_quiet hi (fun _ h => h), ?_, s.tick_dt_toNat, s.tick_st_toNat, rfl⟩
  exact preIncrement_pc_toNat hpc

/-- A finished program executes the jump to itself (R89). -/
theorem executes_of_finished {s : State} (h : finished s) :
    ∃ nnn, executes (.jp nnn) s ∧ zext12 nnn = s.pc := by
  obtain ⟨hf, nnn, hfetch, hself⟩ := h
  have hpc : s.pc.toNat ≤ 4094 := by
    by_contra hlt
    rw [fetch_fault s (by omega)] at hfetch
    cases hfetch
  rw [fetch_ok s hpc, ← opcodeAt_eq_joinBytes] at hfetch
  have hop : opcodeAt s = encode (.jp nnn) := Except.ok.inj hfetch
  exact ⟨nnn, ⟨hf, hpc, by rw [hop, decodeWord_encode rfl]⟩, hself⟩

/-- Settles O10: the jump to itself takes back the pre-increment, so only the tick remains, which
changes neither PC nor MEM. -/
theorem finishedProgramStays : Obligations.FinishedProgramStays := by
  intro s h
  obtain ⟨nnn, hi, hself⟩ := executes_of_finished h
  have hstep : step s = .next s.tick := by
    rw [step_of_quiet hi (fun _ hr => hr), effect, hself]
    rfl
  exact ⟨_, hstep, h, rfl, s.tick_dt_toNat, s.tick_st_toNat⟩

/-- Settles O11: a CYCLE that raises a fault sets the latch only, and one that raises none ends with
the latch clear. -/
theorem faultsArePrecise : Obligations.FaultsArePrecise := by
  intro s t f hs hstep ht
  rcases step_next_cases hstep with ⟨hne, -⟩ | ⟨-, g, -, rfl⟩ | ⟨-, i, hi, -, rfl⟩
  · exact absurd hs hne
  · exact congrArg (fun o => { s with fault := o }) ht
  · simp [effect_preIncrement_fault hi] at ht

/-- Settles O12: a CYCLE that raises a fault ends with it, and one that raises none ends with the
latch clear. -/
theorem faultsExactlyWhenTheTableSays : Obligations.FaultsExactlyWhenTheTableSays := by
  intro s t f hs hstep
  change t.fault = some f ↔ cycleRaises s f
  rcases step_next_cases hstep with ⟨hne, -⟩ | ⟨-, g, hg, rfl⟩ | ⟨hr, i, hi, -, rfl⟩
  · exact absurd hs hne
  · constructor
    · intro hfg
      exact Option.some.inj hfg ▸ hg
    · intro hf
      rw [step_of_cycleRaises hs hf] at hstep
      rw [← Host.Outcome.next.inj hstep, State.setFault_fault]
  · simp [effect_preIncrement_fault hi, hr f]

end Sys2Proof.Machine
end

section
/-! PROOFS. The invariant: at reset, and kept by every step and by every transaction of the host
(spec/20_memory.md section 1, spec/44_display.md R132, spec/10_state.md R16). -/

namespace Sys2Proof.Machine

/-! ## The two arrays -/

/-- A store of nothing or inside MEM keeps MEM canonical and in range. -/
theorem memOk_storeBytes {s : State} {lo : Nat} {bs : List Byte} (h : memOk s)
    (hb : bs = [] ∨ lo + bs.length ≤ 4096) : memOk (s.storeBytes lo bs) := by
  obtain ⟨hwf, hbelow⟩ := h
  exact ⟨Memory.wf_writeBytes hwf lo bs, Memory.below_writeBytes hbelow lo bs hb⟩

theorem dispOk_setDisp_nil (s : State) : dispOk (s.setDisp []) :=
  ⟨Memory.wf_nil, fun _ hc => absurd hc List.not_mem_nil, fun _ => .inl rfl⟩

theorem dispOk_drawSprite {s : State} (h : dispOk s) (vx vy : Byte) (rows : List Byte) :
    dispOk (s.drawSprite vx vy rows) := by
  obtain ⟨hwf, hbelow, honoff⟩ := h
  exact ⟨blit_wf _ hwf _, blit_below _ hbelow (fun _ hk => spriteCells_lt hk) _,
    blit_on_off _ honoff _⟩

theorem memOk_effect {i : Instr} {s : State} (h : memOk s) (hq : quiet i s) :
    memOk (effect i s) := by
  rcases effect_mem i s with e | ⟨x, rfl⟩ | ⟨x, rfl⟩
  · rwa [memOk, e]
  · exact memOk_storeBytes h (.inr (Nat.add_le_add_right (quiet_ldB.1 hq) 3))
  · refine memOk_storeBytes h ?_
    rw [← List.length_eq_zero_iff, State.firstRegs_length _ _ (by omega)]
    exact quiet_stRegs.1 hq

theorem dispOk_effect {i : Instr} {s : State} (h : dispOk s) : dispOk (effect i s) := by
  rcases effect_disp i s with e | rfl | ⟨x, y, n, rfl⟩
  · rwa [dispOk, e]
  · exact dispOk_setDisp_nil s
  · exact dispOk_drawSprite h _ _ _

/-! ## PC and the stack -/

/-- Every address the table of R15 names is at most the highest target of `BNNN` (R16). -/
theorem pcAfter_le {i : Instr} {s : State} {a : Nat} (ha : a ≤ 4094)
    (hstack : ∀ k : Fin 16, s.stack[k].toNat ≤ 4096) : pcAfter i s a ≤ 0x10FE := by
  cases i
  case jp nnn | call nnn => exact Nat.le_trans nnn.isLt.le (by decide)
  case jpV0 nnn =>
    have hnnn := nnn.isLt
    have hv0 := (s.reg 0).isLt
    simp only [pcAfter]
    omega
  case ret =>
    have hle := hstack ⟨s.sp.val - 1, by omega⟩
    exact Nat.le_trans hle (by decide)
  all_goals
    simp only [pcAfter]
    split <;> omega

/-- The address a call pushes is one after an instruction, so at most 4096 (R92). -/
theorem stack_effect_le {i : Instr} {s : State} (hpc : s.pc.toNat ≤ 4096)
    (hstack : ∀ k : Fin 16, s.stack[k].toNat ≤ 4096) (k : Fin 16) :
    (effect i s).stack[k].toNat ≤ 4096 := by
  rcases effect_stack i s with ⟨e, -⟩ | rfl | ⟨nnn, rfl⟩
  · rw [e]; exact hstack k
  · exact hstack k
  · rw [effect_call_stack]
    split
    · exact hpc
    · exact hstack k

/-! ## Steps and transactions -/

/-- The invariant does not look at the registers, the timers, the latch, or the inputs. -/
theorem State.Inv.of_same {s t : State} (h : s.Inv) (hmem : t.mem = s.mem) (hdisp : t.disp = s.disp)
    (hpc : t.pc = s.pc) (hstack : t.stack = s.stack) : t.Inv := by
  obtain ⟨hm, hd, hp⟩ := h
  exact ⟨by rwa [memOk, hmem], by rwa [dispOk, hdisp], by rwa [pcOk, hpc, hstack]⟩

/-- The effect of an instruction in the state its CYCLE prepares keeps the invariant. -/
theorem State.Inv.effect {i : Instr} {s : State} (h : s.Inv) (hpc : s.pc.toNat ≤ 4094)
    (hq : quiet i s.preIncrement) : (effect i s.preIncrement).Inv := by
  obtain ⟨hm, hd, -, hstack⟩ := h
  refine ⟨memOk_effect (s := s.preIncrement) hm hq, dispOk_effect (s := s.preIncrement) hd, ?_, ?_⟩
  · rw [effect_pc i hpc]
    exact pcAfter_le hpc hstack
  · exact stack_effect_le (by rw [preIncrement_pc_toNat hpc]; omega) hstack

/-- Settles O14: the empty arrays are canonical, and PC and the stack are evaluated. -/
theorem invariantAtReset : Obligations.InvariantAtReset := by
  refine ⟨⟨Memory.wf_nil, ?_⟩, dispOk_setDisp_nil State.reset, ?_, ?_⟩
  · exact fun _ hc => absurd hc List.not_mem_nil
  · decide
  · decide

/-- Settles O15: a step leaves the state, sets its latch, or is an effect and a tick. -/
theorem stepKeepsInvariant : Obligations.StepKeepsInvariant := by
  intro s t hinv hstep
  rcases step_next_cases hstep with ⟨-, rfl⟩ | ⟨-, f, -, rfl⟩ | ⟨-, i, ⟨-, hpc, -⟩, hq, rfl⟩
  · exact hinv
  · exact hinv.of_same rfl rfl rfl rfl
  · exact (hinv.effect hpc (quiet_preIncrement.2 hq)).of_same rfl rfl rfl rfl

/-- A transaction that only stores bytes inside MEM keeps the invariant. -/
theorem State.Inv.storeBytes {s : State} {lo : Nat} {bs : List Byte} (h : s.Inv)
    (hb : lo + bs.length ≤ 4096) : (s.storeBytes lo bs).Inv := by
  obtain ⟨hm, hd, hp⟩ := h
  exact ⟨memOk_storeBytes hm (.inr hb), hd, hp⟩

/-- Settles O16: RESET leaves the reset state, the loads store inside MEM, CYCLE is a step with its
byte, and no other transaction touches what the invariant looks at. -/
theorem transactionsKeepInvariant : Obligations.TransactionsKeepInvariant := by
  intro e s t r hinv h
  cases e
  case reset =>
    cases h
    exact State.Inv.of_same invariantAtReset rfl rfl rfl rfl
  case loadFontset font =>
    cases h
    exact hinv.storeBytes (by simp)
  case loadRom bytes =>
    cases h
    refine hinv.storeBytes ?_
    rw [List.length_take]
    simp only [Config.romBase, Config.romMax]
    omega
  case cycle b =>
    obtain ⟨u, hu, rfl, -⟩ := transact_cycle_cases h
    have hrnd : ({ s with rndIn := [b] } : State).Inv := hinv.of_same rfl rfl rfl rfl
    have hu' : u.Inv := stepKeepsInvariant _ u hrnd hu
    exact hu'.of_same rfl rfl rfl rfl
  case setKeys | readDisplay | readStatus | readPc =>
    cases h
    exact hinv.of_same rfl rfl rfl rfl

end Sys2Proof.Machine
end

section
/-! PROOFS. Which elements an instruction writes, and which it reads: the access matrix of
spec/10_state.md section 12 by columns, and the inputs KEY, RND and ST that only their own
instructions depend on. -/

namespace Sys2Proof.Machine

/-- Settles O17: the effect of an instruction writes its columns only, and taking a fault writes
none of them. -/
theorem instructionsWriteOnlyTheirColumns : Obligations.InstructionsWriteOnlyTheirColumns := by
  intro i s t hexec _
  rcases exec_next_cases hexec with ⟨f, -, rfl⟩ | ⟨-, rfl⟩
  · exact ⟨fun _ _ => rfl, fun h => absurd rfl h, fun h => absurd ⟨rfl, rfl⟩ h,
      fun h => absurd rfl h, fun h => absurd rfl h, fun h => absurd (fun _ => rfl) h,
      fun h => absurd (fun _ => rfl) h, rfl, fun h => absurd ⟨rfl, rfl⟩ h⟩
  · refine ⟨effect_regs i s, (effect_i i s).resolve_left, (effect_stack i s).resolve_left,
      (effect_dt i s).resolve_left, (effect_st i s).resolve_left, fun h => ?_, fun h => ?_,
      effect_key i s, (effect_rnd i s).resolve_left⟩
    · exact (effect_mem i s).resolve_left fun e => h fun a => by rw [e]
    · exact (effect_disp i s).resolve_left fun e => h fun k => by rw [e]

/-! ## Instructions that do not look at an input -/

/-- An update of the state that an instruction's fault condition does not look at, that its effect
goes through, and that taking a fault goes through, makes no difference to the instruction. -/
theorem exec_update {i : Instr} {s : State} (u : State → State)
    (hr : ∀ f, raises i (u s) f = raises i s f) (he : effect i (u s) = u (effect i s))
    (hf : ∀ f, (u s).undoPreIncrement.setFault f = u (s.undoPreIncrement.setFault f)) :
    ∃ t, exec i s = .next t ∧ exec i (u s) = .next (u t) := by
  rcases raises_or_quiet i s with ⟨f, h⟩ | h
  · refine ⟨_, exec_of_raises h, ?_⟩
    rw [exec_of_raises ((hr f).mpr h), ← hf f]
    rfl
  · refine ⟨_, exec_of_quiet h, ?_⟩
    rw [exec_of_quiet (fun f hf => h f ((hr f).mp hf)), he]

/-- Without `EX9E`, `EXA1` and `FX0A`, an effect goes through a change of KEY. -/
theorem effect_of_key {i : Instr} (h : ∀ x, i ≠ .skp x ∧ i ≠ .sknp x ∧ i ≠ .ldVxK x) (s : State)
    (k : Vector Bool 16) : effect i { s with key := k } = { effect i s with key := k } := by
  cases i
  case skp x => exact absurd rfl (h x).1
  case sknp x => exact absurd rfl (h x).2.1
  case ldVxK x => exact absurd rfl (h x).2.2
  case rnd x kk =>
    simp only [effect, State.consumeRnd, State.rndByte]
    cases s.rndIn <;> rfl
  case seImm | sneImm | seReg | sneReg =>
    simp only [effect, State.skipIf_eq]
    rfl
  all_goals rfl

/-- Without `CXKK`, an effect goes through a change of the random source. -/
theorem effect_of_rnd {i : Instr} (h : ∀ x kk, i ≠ .rnd x kk) (s : State) (l : List Byte)
    (n : Nat) : effect i { s with rndIn := l, rndDrawn := n } =
      { effect i s with rndIn := l, rndDrawn := n } := by
  cases i
  case rnd x kk => exact absurd rfl (h x kk)
  case ldVxK x =>
    simp only [effect]
    change s.lowestKeyDown.elim _ _ = _
    cases s.lowestKeyDown <;> rfl
  case seImm | sneImm | seReg | sneReg | skp | sknp =>
    simp only [effect, State.skipIf_eq]
    rfl
  all_goals rfl

/-- Without `FX18`, an effect goes through a change of ST. -/
theorem effect_of_st {i : Instr} (h : ∀ x, i ≠ .ldStVx x) (s : State) (b : Byte) :
    effect i { s with st := b } = { effect i s with st := b } := by
  cases i
  case ldStVx x => exact absurd rfl (h x)
  case rnd x kk =>
    simp only [effect, State.consumeRnd, State.rndByte]
    cases s.rndIn <;> rfl
  case ldVxK x =>
    simp only [effect]
    change s.lowestKeyDown.elim _ _ = _
    cases s.lowestKeyDown <;> rfl
  case seImm | sneImm | seReg | sneReg | skp | sknp =>
    simp only [effect, State.skipIf_eq]
    rfl
  all_goals rfl

/-- Settles O18: the effect of every other instruction goes through a change of KEY. -/
theorem onlyKeyInstructionsReadKeys : Obligations.OnlyKeyInstructionsReadKeys := by
  intro i s k h
  exact exec_update (fun s => { s with key := k }) (raises_congr rfl rfl (fun _ => rfl) i)
    (effect_of_key h s k) (fun _ => rfl)

/-- Settles O19: the effect of every other instruction goes through a change of the random source.
-/
theorem onlyRndReadsRandomBytes : Obligations.OnlyRndReadsRandomBytes := by
  intro i s l n h
  exact exec_update (fun s => { s with rndIn := l, rndDrawn := n })
    (raises_congr rfl rfl (fun _ => rfl) i) (effect_of_rnd h s l n) (fun _ => rfl)

/-- No instruction but `FX18` writes ST, and neither does taking a fault. -/
theorem exec_st {i : Instr} {s t : State} (h : ∀ x, i ≠ .ldStVx x) (he : exec i s = .next t) :
    t.st = s.st := by
  rcases exec_next_cases he with ⟨f, -, rfl⟩ | ⟨-, rfl⟩
  · rfl
  · exact (effect_st i s).resolve_right fun ⟨x, hx⟩ => h x hx

/-- Settles O20: `FX18` overwrites ST, and the effect of every other instruction goes through a
change of it. -/
theorem noInstructionReadsSoundTimer : Obligations.NoInstructionReadsSoundTimer := by
  intro i s b
  by_cases h : ∃ x, i = .ldStVx x
  · obtain ⟨x, rfl⟩ := h
    exact ⟨_, _, rfl, rfl, rfl, fun hne => absurd rfl (hne x), fun _ _ => rfl⟩
  · have hne : ∀ x, i ≠ .ldStVx x := not_exists.mp h
    obtain ⟨t, ht, hu⟩ := exec_update (fun s => { s with st := b })
      (raises_congr rfl rfl (fun _ => rfl) i) (effect_of_st hne s b) (fun _ => rfl)
    exact ⟨t, _, ht, hu, rfl, fun _ => ⟨rfl, exec_st hne ht⟩, fun x hx => absurd hx (hne x)⟩

end Sys2Proof.Machine
end

section
/-! PROOFS. The host's transactions (spec/70_reset_and_hazards.md): what RESET, the loads and the
reads leave and answer, what stays while a fault is latched, and who writes KEY. -/

namespace Sys2Proof.Machine

/-! ## CYCLE -/

/-- No CYCLE writes KEY (R19). -/
theorem step_key {s t : State} (h : step s = .next t) : t.key = s.key := by
  rcases step_next_cases h with ⟨-, rfl⟩ | ⟨-, f, -, rfl⟩ | ⟨-, i, -, -, rfl⟩
  · rfl
  · rfl
  · rw [State.tick_key, effect_key, State.preIncrement_key]

/-- While a fault is latched the transaction CYCLE changes nothing and returns it (R80, R170). -/
theorem transact_cycle_latched {b : Byte} {s t : State} {r : Reply} {f : Fault}
    (hs : s.fault = some f) (h : transact (.cycle b) s = .next (t, r)) :
    t = s ∧ r = .cycled (some f) := by
  obtain ⟨u, hu, rfl, rfl⟩ := transact_cycle_cases h
  rw [step_latched (s := { s with rndIn := [b] }) hs] at hu
  cases hu
  exact ⟨rfl, congrArg Reply.cycled hs⟩

/-- Settles O13: a latched CYCLE changes nothing, the other transactions but RESET do not write the
latch, and RESET clears it. -/
theorem onlyResetClearsFault : Obligations.OnlyResetClearsFault := by
  refine ⟨fun e s t r f hs h hreset => ?_, fun s => ⟨hostReset s, .done, rfl, rfl⟩⟩
  by_cases hc : ∃ b, e = .cycle b
  · obtain ⟨b, rfl⟩ := hc
    obtain ⟨rfl, rfl⟩ := transact_cycle_latched hs h
    exact ⟨hs, fun _ _ => ⟨rfl, rfl⟩⟩
  · have hquiet := transact_quiet_cases hreset (not_exists.mp hc) h
    rw [hquiet]
    exact ⟨hs, fun b hb => absurd ⟨b, hb⟩ hc⟩

/-- Settles O53: SET_KEYS writes KEY only, CYCLE does not write it, and no other transaction but
RESET does. -/
theorem onlySetKeysWritesKeys : Obligations.OnlySetKeysWritesKeys := by
  refine ⟨fun k s => ⟨setKeys k s, rfl, fun _ => rfl, rfl⟩, fun e s t r h hreset hset => ?_⟩
  cases e
  case reset => exact absurd rfl hreset
  case setKeys k => exact absurd rfl (hset k)
  case cycle b =>
    obtain ⟨u, hu, rfl, -⟩ := transact_cycle_cases h
    have hkey := step_key hu
    exact hkey
  case loadFontset | loadRom | readDisplay | readStatus | readPc =>
    cases h
    rfl

/-- Settles O55: reading PC is without effect, and a CYCLE that raised a fault has changed the latch
only. -/
theorem hostReadsPcOfFaultingInstruction : Obligations.HostReadsPcOfFaultingInstruction := by
  refine ⟨fun s => rfl, fun b s t f hs h => ?_⟩
  obtain ⟨u, hu, rfl, hr⟩ := transact_cycle_cases h
  have hf : u.fault = some f := (Reply.cycled.inj hr).symm
  have hpc : u.pc = s.pc := by rw [faultsArePrecise { s with rndIn := [b] } u f hs hu hf]
  rw [← hpc]
  rfl

/-! ## RESET and the reads -/

/-- Settles O48, by the values of the reset state. -/
theorem resetValues : Obligations.ResetValues := by
  intro s
  refine ⟨hostReset s, rfl, fun r => ?_, rfl, rfl, fun k => ?_, rfl, rfl, rfl, fun _ => rfl,
    fun _ => rfl, fun k => ?_, rfl⟩
  · exact Vector.getElem_replicate r.isLt
  · exact Vector.getElem_replicate k.isLt
  · exact Vector.getElem_replicate k.isLt

theorem readDisplay_length (s : State) : (readDisplay s).length = 2048 := by
  simp [readDisplay]

/-- Byte `k` of READ_DISPLAY is cell `k` (R185). -/
theorem readDisplay_getElem? (s : State) {k : Nat} (h : k < 2048) :
    (readDisplay s)[k]? = some (s.disp.read k) := by
  simp [readDisplay, List.getElem?_range h]

/-- Settles O51: READ_DISPLAY lists the cells in order, and each reads as the invariant says. -/
theorem readDisplayIsRowMajor : Obligations.ReadDisplayIsRowMajor := by
  rintro s ⟨-, -, honoff⟩
  refine ⟨readDisplay s, rfl, readDisplay_length s, fun x y hx hy => ?_, fun b hb => ?_⟩
  · exact readDisplay_getElem? s (by omega)
  · obtain ⟨k, -, rfl⟩ := List.mem_map.1 hb
    exact honoff k

theorem readStatus_snd_iff (s : State) : (readStatus s).snd = true ↔ 0 < s.st.toNat :=
  decide_eq_true_iff

/-- Settles O52: the sound signal is on while ST is above 0, and the CYCLE of `FX18` leaves ST one
below VX. -/
theorem readStatusReportsFaultAndSound : Obligations.ReadStatusReportsFaultAndSound := by
  refine ⟨fun s => ⟨readStatus s, rfl, rfl, readStatus_snd_iff s⟩, fun x s h => ?_⟩
  refine ⟨_, step_ldStVx h, ?_⟩
  rw [readStatus_snd_iff, State.tick_st_toNat, State.setSt_st]
  omega

/-! ## The loads -/

theorem loadFontset_read {font : Vector Byte 80} (s : State) (k : Fin 80) :
    (loadFontset font s).mem.read (0x050 + k.val) = font[k] := by
  have hlen : k.val < font.toList.length := by simp
  have hget := s.mem.getElem?_eq_read_writeBytes 0x050 hlen
  rw [List.getElem?_eq_getElem hlen, Vector.getElem_toList] at hget
  exact (Option.some.inj hget).symm

theorem loadFontset_read_of_outside {font : Vector Byte 80} (s : State) {a : Nat}
    (h : a < 0x050 ∨ 0x0A0 ≤ a) : (loadFontset font s).mem.read a = s.mem.read a :=
  s.mem.read_writeBytes_of_outside (by simpa using h)

/-- Settles O54: LOAD_FONTSET is one store, of the 80 bytes of FONT from 0x050. -/
theorem loadFontsetWritesOnlyTheFont : Obligations.LoadFontsetWritesOnlyTheFont := by
  intro font s
  exact ⟨loadFontset font s, rfl, rfl, loadFontset_read s, fun _ => loadFontset_read_of_outside s⟩

/-- A ROM that fits is stored whole (R182). -/
theorem boot_mem {font : Vector Byte 80} {bytes : List Byte} (s : State)
    (h : bytes.length ≤ 3584) :
    (boot font bytes s).mem = (loadFontset font (hostReset s)).mem.writeBytes 0x200 bytes := by
  simp only [boot, loadRom, Config.romMax, List.take_of_length_le h]
  rfl

/-- Settles O50: the ROM is stored over the memory that LOAD_FONTSET leaves of an empty one, in a
range that does not meet the font's. -/
theorem bootedMemoryMap : Obligations.BootedMemoryMap := by
  intro font bytes s hlen
  simp only [boot_mem s hlen]
  refine ⟨fun k => ?_, fun k hk => ?_, fun a ha => ?_, ?_⟩
  · rw [Memory.read_writeBytes_of_outside _ (by omega)]
    exact loadFontset_read _ k
  · exact Memory.getElem?_eq_read_writeBytes _ 0x200 hk
  · rw [Memory.read_writeBytes_of_outside _ (by omega),
      loadFontset_read_of_outside _ (by omega)]
    rfl
  · rw [← boot_mem s hlen]
    rfl

end Sys2Proof.Machine
end

section
/-! PROOFS. Calls and returns, the jump `BNNN`, and the skips on registers and keys
(spec/41_control_flow.md R90 to R97, spec/45_keypad_timers.md R140, R141). -/

namespace Sys2Proof

theorem decodeWord_of_class2 {w : Word} (h : fieldClass w = 0x2) :
    decodeWord w = .call (fieldNNN w) := by
  simp [decodeWord, h]

theorem decodeWord_of_class5_n0 {w : Word} (h : fieldClass w = 0x5) (hn : fieldN w = 0x0) :
    decodeWord w = .seReg (fieldX w) (fieldY w) := by
  simp [decodeWord, h, hn]

theorem decodeWord_of_class9_n0 {w : Word} (h : fieldClass w = 0x9) (hn : fieldN w = 0x0) :
    decodeWord w = .sneReg (fieldX w) (fieldY w) := by
  simp [decodeWord, h, hn]

theorem decodeWord_of_classB {w : Word} (h : fieldClass w = 0xB) :
    decodeWord w = .jpV0 (fieldNNN w) := by
  simp [decodeWord, h]

theorem decodeWord_of_classE_kk9E {w : Word} (h : fieldClass w = 0xE) (hk : fieldKK w = 0x9E) :
    decodeWord w = .skp (fieldX w) := by
  simp [decodeWord, decodeClassE, h, hk]

theorem decodeWord_of_classE_kkA1 {w : Word} (h : fieldClass w = 0xE) (hk : fieldKK w = 0xA1) :
    decodeWord w = .sknp (fieldX w) := by
  simp [decodeWord, decodeClassE, h, hk]

end Sys2Proof

namespace Sys2Proof.Machine

/-! ## Calls and returns -/

theorem onlyPcStack_setStack_setPc (s : State) (st : Vector Word 16) (sp : Fin 17) (a : Word) :
    onlyPcStack s ((s.setStack st sp).setPc a) :=
  ⟨fun _ _ => rfl, rfl, ⟨rfl, rfl⟩, fun _ => rfl, fun _ => rfl, ⟨rfl, rfl⟩, ⟨rfl, rfl⟩⟩

theorem effect_call_pc (nnn : Addr12) (s : State) :
    (effect (.call nnn) s).pc.toNat = nnn.toNat := zext12_toNat nnn

theorem effect_call_sp (nnn : Addr12) {s : State} (h : s.sp.val < 16) :
    (effect (.call nnn) s).sp.val = s.sp.val + 1 :=
  (congrArg Fin.val (succ_sp_of_lt h)).symm

/-- Settles O22: a pop lowers SP to the entry it answers; with nothing to pop the fault is taken. -/
theorem returnPopsTheStack : Obligations.ReturnPopsTheStack := by
  refine ⟨by decide, fun s hsp => ?_, fun s hsp => exec_preIncrement_of_raises ⟨hsp, rfl⟩⟩
  have hpos : s.sp.val ≠ 0 := fun h => hsp (Fin.ext h)
  refine ⟨_, exec_of_quiet (quiet_ret.2 hpos), onlyPcStack_setStack_setPc s _ _ _, rfl, rfl, ?_⟩
  exact Vector.getElem?_eq_getElem _

/-- Settles O24: a push writes the entry at SP and raises SP; with no room the fault is taken. -/
theorem callPushesTheReturnAddress : Obligations.CallPushesTheReturnAddress := by
  refine ⟨decodesAs_of_class (by decide) decodeWord_of_class2, fun nnn s hsp => ?_,
    fun nnn s hsp => exec_preIncrement_of_raises ⟨hsp, rfl⟩⟩
  exact ⟨_, exec_of_quiet (quiet_call.2 hsp), onlyPcStack_setStack_setPc s _ _ _,
    effect_call_pc nnn s, effect_call_sp nnn hsp, effect_call_stack nnn s⟩

/-- A return right after a call answers the address that was pushed and restores SP. -/
theorem effect_ret_after_call {s t : State} (nnn : Addr12) (h : s.sp.val < 16)
    (hstack : t.stack = (effect (.call nnn) s).stack) (hsp : t.sp = (effect (.call nnn) s).sp) :
    (effect .ret t).pc = s.pc ∧ (effect .ret t).sp = s.sp := by
  have hval : t.sp.val - 1 = s.sp.val := by rw [hsp, effect_call_sp nnn h]; rfl
  constructor
  · have hget := effect_call_stack nnn s ⟨s.sp.val, h⟩
    simp only [effect, State.setPc_pc, hval, hstack]
    exact hget.trans (if_pos rfl)
  · exact Fin.ext hval

/-- Settles O25: the second CYCLE executes the return, whose entry is the one the call pushed: PC
after the pre-increment of the first. -/
theorem callThenReturnRoundTrip : Obligations.CallThenReturnRoundTrip := by
  intro nnn s hready hsp hnnn hhi hlo
  have hcall := executes_of_readyToRun (i := .call nnn) rfl hready
  have hstep := step_of_quiet hcall (quiet_call.2 hsp)
  obtain ⟨hfault, hpc, -⟩ := hcall
  generalize ht : (effect (.call nnn) s.preIncrement).tick = t at hstep
  have htpc : t.pc.toNat = nnn.toNat := by rw [← ht]; exact zext12_toNat nnn
  have hret : executes .ret t := by
    refine ⟨by rw [← ht]; exact hfault, by omega, ?_⟩
    have hmem : t.mem = s.mem := by rw [← ht]; rfl
    rw [opcodeAt, htpc, hmem, hhi, hlo]
    decide
  have hquiet : quiet .ret t := by
    rw [quiet_ret, ← ht, State.tick_sp, effect_call_sp nnn (s := s.preIncrement) hsp]
    omega
  obtain ⟨hupc, husp⟩ := effect_ret_after_call (s := s.preIncrement) (t := t.preIncrement) nnn hsp
    (by rw [← ht]; rfl) (by rw [← ht]; rfl)
  refine ⟨t, _, hstep, step_of_quiet hret hquiet, htpc, effect_preIncrement_fault hret, ?_, husp⟩
  rw [State.tick_pc, hupc, preIncrement_pc_toNat hpc]

/-! ## Jumps and skips -/

theorem exec_jpV0 (nnn : Addr12) (s : State) :
    exec (.jpV0 nnn) s = .next (s.setPc (offsetTarget nnn (s.reg 0))) := rfl

theorem exec_seReg (x y : Reg) (s : State) :
    exec (.seReg x y) s = .next (s.skipIf (s.reg x == s.reg y)) := rfl

theorem exec_sneReg (x y : Reg) (s : State) :
    exec (.sneReg x y) s = .next (s.skipIf (s.reg x != s.reg y)) := rfl

/-- Settles O26: `BNNN` is one write of PC, of a sum that fits in 16 bits. -/
theorem jumpV0AddsV0 : Obligations.JumpV0AddsV0 := by
  refine ⟨decodesAs_of_class (by decide) decodeWord_of_classB, fun nnn s => ?_⟩
  exact ⟨_, exec_jpV0 nnn s, onlyPc_setPc s _, offsetTarget_toNat nnn _⟩

/-- Settles O28: `5XY0` and `9XY0` are skips, which write PC only. -/
theorem skipsOnRegisters : Obligations.SkipsOnRegisters := by
  refine ⟨decodesAs_of_class_n (by decide) (by decide) decodeWord_of_class5_n0,
    decodesAs_of_class_n (by decide) (by decide) decodeWord_of_class9_n0, fun x y s => ⟨?_, ?_⟩⟩
  · exact ⟨_, exec_seReg x y s, onlyPc_skipIf s _, s.skipIf_beq_pc _ _⟩
  · exact ⟨_, exec_sneReg x y s, onlyPc_skipIf s _, s.skipIf_bne_pc _ _⟩

theorem exec_skp_of_key {x : Reg} {k : Fin 16} {s : State} (h : (s.reg x).toNat = k.val) :
    exec (.skp x) s = .next (s.skipIf s.key[k]) := by
  have hlt : (s.reg x).toNat < 16 := h ▸ k.isLt
  simp [exec, execSkp, State.keyAt_of_lt hlt, h]

theorem exec_sknp_of_key {x : Reg} {k : Fin 16} {s : State} (h : (s.reg x).toNat = k.val) :
    exec (.sknp x) s = .next (s.skipIf (!s.key[k])) := by
  have hlt : (s.reg x).toNat < 16 := h ▸ k.isLt
  simp [exec, execSknp, State.keyAt_of_lt hlt, h]

/-- Settles O44: with VX the number of a key both are skips, on it down and on it up; with no such
key the fault is taken. -/
theorem keySkipsTestTheKeyNumberedByVx : Obligations.KeySkipsTestTheKeyNumberedByVx := by
  refine ⟨decodesAs_of_class_kk (by decide) (by decide) decodeWord_of_classE_kk9E,
    decodesAs_of_class_kk (by decide) (by decide) decodeWord_of_classE_kkA1,
    fun x k s hk => ⟨?_, ?_⟩, fun x s hx => ⟨?_, ?_⟩⟩
  · exact ⟨_, exec_skp_of_key hk, onlyPc_skipIf s _, s.skipIf_pc _⟩
  · refine ⟨_, exec_sknp_of_key hk, onlyPc_skipIf s _, ?_⟩
    rw [State.skipIf_pc]
    cases s.key[k] <;> rfl
  · exact exec_preIncrement_of_raises (i := .skp x) ⟨hx, rfl⟩
  · exact exec_preIncrement_of_raises (i := .sknp x) ⟨hx, rfl⟩

end Sys2Proof.Machine
end

section
/-! PROOFS. Subtraction, shifts and the random byte (spec/42_alu.md R107 to R111). -/

namespace Sys2Proof

theorem decodeClass8_of_n5 {w : Word} (h : fieldN w = 0x5) :
    decodeClass8 w = .subReg (fieldX w) (fieldY w) := by
  simp [decodeClass8, h]

theorem decodeClass8_of_n6 {w : Word} (h : fieldN w = 0x6) :
    decodeClass8 w = .shr (fieldX w) (fieldY w) := by
  simp [decodeClass8, h]

theorem decodeClass8_of_n7 {w : Word} (h : fieldN w = 0x7) :
    decodeClass8 w = .subnReg (fieldX w) (fieldY w) := by
  simp [decodeClass8, h]

theorem decodeClass8_of_nE {w : Word} (h : fieldN w = 0xE) :
    decodeClass8 w = .shl (fieldX w) (fieldY w) := by
  simp [decodeClass8, h]

theorem decodeWord_of_classC {w : Word} (h : fieldClass w = 0xC) :
    decodeWord w = .rnd (fieldX w) (fieldKK w) := by
  simp [decodeWord, h]

end Sys2Proof

namespace Sys2Proof.Machine

/-! ## Results and flags as numbers -/

theorem sub_toNat (a b : Byte) : (a - b).toNat = (a.toNat + 256 - b.toNat) % 256 := by
  have ha := a.isLt
  have hb := b.isLt
  rw [BitVec.toNat_sub]
  omega

theorem flagByte_strictlyGreater_toNat (a b : Byte) :
    (flagByte (strictlyGreater a b)).toNat = if a.toNat > b.toNat then 1 else 0 := by
  simp only [flagByte_toNat, strictlyGreater_iff]

/-- The bit a right shift moves out, as a number (R108). -/
theorem flagByte_lowBitOut_toNat (b : Byte) : (flagByte (lowBitOut b)).toNat = b.toNat % 2 := by
  simp only [flagByte_toNat, lowBitOut, BitVec.getLsbD, Nat.testBit_zero, decide_eq_true_eq]
  split <;> omega

/-- The bit a left shift moves out, as a number (R110). -/
theorem flagByte_highBitOut_toNat (b : Byte) : (flagByte (highBitOut b)).toNat = b.toNat / 128 := by
  have hlt := b.isLt
  simp only [flagByte_toNat, highBitOut, BitVec.getLsbD, Nat.testBit_eq_decide_div_mod_eq,
    decide_eq_true_eq]
  split <;> omega

theorem shiftRight_one_toNat (b : Byte) : (b >>> 1).toNat = b.toNat / 2 := by
  rw [BitVec.toNat_ushiftRight, Nat.shiftRight_eq_div_pow]

theorem shiftLeft_one_toNat (b : Byte) : (b <<< 1).toNat = b.toNat * 2 % 256 := by
  rw [BitVec.toNat_shiftLeft, Nat.shiftLeft_eq]

/-! ## VF, then VX -/

theorem onlyRegs_setFlagThenResult (s : State) (x : Reg) (r : Byte) (c : Bool) :
    onlyRegs [x, 15] s (s.setFlagThenResult x r c) :=
  ⟨sameRegsBut_setFlagThenResult s x r c, rfl, rfl, ⟨rfl, rfl⟩, ⟨rfl, rfl⟩, fun _ => rfl,
    fun _ => rfl, ⟨rfl, rfl⟩, ⟨rfl, rfl⟩⟩

/-- An instruction that writes a flag to VF and then a result to VX: what it leaves, by numbers. -/
theorem exec_flag_then_result {i : Instr} {s : State} {x : Reg} {r : Byte} {c : Bool} {n m : Nat}
    (he : exec i s = .next (s.setFlagThenResult x r c)) (hr : r.toNat = n)
    (hc : (flagByte c).toNat = m) :
    ∃ t, exec i s = .next t ∧ onlyRegs [x, 15] s t ∧ (t.reg x).toNat = n ∧
      (x ≠ 15 → (t.reg 15).toNat = m) := by
  refine ⟨_, he, onlyRegs_setFlagThenResult s x r c, ?_, fun hx => ?_⟩
  · rw [State.setFlagThenResult_reg_result, hr]
  · rw [State.setFlagThenResult_reg_flag _ _ _ _ hx, hc]

/-- Settles O33: both subtractions write the comparison to VF, then the difference to VX. -/
theorem subtractSetsStrictGreater : Obligations.SubtractSetsStrictGreater := by
  refine ⟨decodesAs_of_class8 (by decide) (by decide) decodeClass8_of_n5,
    decodesAs_of_class8 (by decide) (by decide) decodeClass8_of_n7, fun x y s => ⟨?_, ?_⟩⟩
  · exact exec_flag_then_result rfl (sub_toNat _ _) (flagByte_strictlyGreater_toNat _ _)
  · exact exec_flag_then_result rfl (sub_toNat _ _) (flagByte_strictlyGreater_toNat _ _)

/-- Settles O34: both shifts write the bit that falls out to VF, then the shifted byte to VX. -/
theorem shiftsMoveOneBitOut : Obligations.ShiftsMoveOneBitOut := by
  refine ⟨decodesAs_of_class8 (by decide) (by decide) decodeClass8_of_n6,
    decodesAs_of_class8 (by decide) (by decide) decodeClass8_of_nE, fun x y s => ⟨?_, ?_⟩⟩
  · exact exec_flag_then_result rfl (shiftRight_one_toNat _) (flagByte_lowBitOut_toNat _)
  · exact exec_flag_then_result rfl (shiftLeft_one_toNat _) (flagByte_highBitOut_toNat _)

/-! ## The random byte -/

theorem exec_rnd (x : Reg) (kk : Byte) (s : State) :
    exec (.rnd x kk) s = .next (s.consumeRnd.setReg x (s.rndByte &&& kk)) := rfl

/-- With bytes supplied, `CXKK` consumes the first (R111). -/
theorem exec_rnd_of_supplied {x : Reg} {kk b : Byte} {bs : List Byte} {s : State}
    (h : s.rndIn = b :: bs) :
    exec (.rnd x kk) s = .next (({ s with rndIn := bs } : State).setReg x (b &&& kk)) := by
  simp only [exec_rnd, State.consumeRnd, State.rndByte, h]

/-- With none supplied, it consumes a free one (R111). -/
theorem exec_rnd_of_free {x : Reg} {kk : Byte} {s : State} (h : s.rndIn = []) :
    exec (.rnd x kk) s = .next (({ s with rndDrawn := s.rndDrawn + 1 } : State).setReg x
      (Config.rnd s.rndDrawn &&& kk)) := by
  simp only [exec_rnd, State.consumeRnd, State.rndByte, h]

/-- A CYCLE given a byte steps with that byte supplied (R80). -/
theorem cycle_of_step {b : Byte} {s t : State} (h : step { s with rndIn := [b] } = .next t) :
    cycle b s = .next { t with rndIn := s.rndIn } := by
  rw [cycle, h]

/-- Settles O35: the byte consumed, masked, is written to VX, and the tick of a CYCLE keeps VX. -/
theorem randomByteIsMasked : Obligations.RandomByteIsMasked := by
  refine ⟨decodesAs_of_class (by decide) decodeWord_of_classC, fun x kk b bs s h => ?_,
    fun x kk s h => ?_, fun x kk b s h => ?_⟩
  · exact ⟨_, exec_rnd_of_supplied h, onlyRegs_setReg _ x _, State.setReg_reg_same _ x _⟩
  · exact ⟨_, exec_rnd_of_free h, onlyRegs_setReg _ x _, State.setReg_reg_same _ x _⟩
  · have hi : executes (.rnd x kk) { s with rndIn := [b] } := executes_of_readyToRun rfl h
    refine ⟨_, cycle_of_step (step_of_quiet hi fun _ hr => hr), ?_⟩
    exact State.setReg_reg_same _ x _

end Sys2Proof.Machine
end

section
/-! PROOFS. The index register and the instructions that store to and load from MEM at I
(spec/43_index_memory.md), and that a store is seen by the next fetch (spec/20_memory.md section 9).
-/

namespace Sys2Proof

theorem decodeClassF_of_kk1E {w : Word} (h : fieldKK w = 0x1E) :
    decodeClassF w = .addI (fieldX w) := by
  simp [decodeClassF, h]

theorem decodeClassF_of_kk29 {w : Word} (h : fieldKK w = 0x29) :
    decodeClassF w = .ldF (fieldX w) := by
  simp [decodeClassF, h]

theorem decodeClassF_of_kk33 {w : Word} (h : fieldKK w = 0x33) :
    decodeClassF w = .ldB (fieldX w) := by
  simp [decodeClassF, h]

theorem decodeClassF_of_kk55 {w : Word} (h : fieldKK w = 0x55) :
    decodeClassF w = .stRegs (fieldX w) := by
  simp [decodeClassF, h]

theorem decodeClassF_of_kk65 {w : Word} (h : fieldKK w = 0x65) :
    decodeClassF w = .ldRegs (fieldX w) := by
  simp [decodeClassF, h]

end Sys2Proof

namespace Sys2Proof.Machine

/-! ## The index register -/

theorem exec_addI (x : Reg) (s : State) :
    exec (.addI x) s = .next (s.setI (s.i + zext8 (s.reg x))) := rfl

theorem exec_ldF (x : Reg) (s : State) :
    exec (.ldF x) s = .next (s.setI (glyphAddr (s.reg x))) := rfl

theorem add_zext8_toNat (a : Word) (b : Byte) :
    (a + zext8 b).toNat = (a.toNat + b.toNat) % 65536 := by
  rw [BitVec.toNat_add, zext8, BitVec.toNat_setWidth_of_le (by decide)]

/-- The glyph formula of the whole byte fits in 16 bits (R122). -/
theorem glyphAddr_toNat (b : Byte) : (glyphAddr b).toNat = 0x050 + 5 * b.toNat := by
  have hlt := b.isLt
  simp only [glyphAddr, BitVec.toNat_ofNat, Config.fontBase, Config.glyphBytes]
  omega

/-- Settles O37: both are one write of I. -/
theorem indexArithmetic : Obligations.IndexArithmetic := by
  refine ⟨decodesAs_of_classF (by decide) (by decide) decodeClassF_of_kk1E,
    decodesAs_of_classF (by decide) (by decide) decodeClassF_of_kk29, fun x s => ⟨?_, ?_⟩⟩
  · exact ⟨_, exec_addI x s, onlyI_setI s _, add_zext8_toNat _ _⟩
  · exact ⟨_, exec_ldF x s, onlyI_setI s _, glyphAddr_toNat _⟩

/-! ## Stores at I -/

theorem onlyMem_storeBytes (s : State) {lo n : Nat} {bs : List Byte} (h : bs.length = n) :
    onlyMem lo n s (s.storeBytes lo bs) := by
  refine ⟨fun _ _ => rfl, rfl, rfl, ⟨rfl, rfl⟩, ⟨rfl, rfl⟩, fun a ha => ?_, fun _ => rfl,
    ⟨rfl, rfl⟩, ⟨rfl, rfl⟩⟩
  exact s.mem.read_writeBytes_of_outside (by omega)

/-- What MEM reads as after a store at I of the bytes `b 0`, `b 1`, … -/
theorem storeBytes_read {s : State} {n : Nat} {bs : List Byte} {b : Nat → Byte}
    (hlen : bs.length = n) (hb : ∀ k, k < n → bs[k]? = some (b k)) (a : Nat) :
    (s.storeBytes s.baseAddr bs).mem.read a = memAfterStore s n b a := by
  subst hlen
  rw [State.storeBytes_mem, Memory.read_writeBytes, memAfterStore]
  split
  · next h =>
    have hget := hb (a - s.baseAddr) (by omega)
    rw [List.getElem?_eq_getElem (by omega)] at hget
    exact Option.some.inj hget
  · rfl

theorem memAfterStore_at {s : State} {n k : Nat} (b : Nat → Byte) (h : k < n) :
    memAfterStore s n b (s.baseAddr + k) = b k := by
  rw [memAfterStore, if_pos (by omega), Nat.add_sub_cancel_left]

/-- A fetch reads the opcode of the two bytes at PC, by any function MEM reads as (R81). -/
theorem fetch_eq_opcodeOf {s : State} {m : Nat → Byte} (hm : ∀ a, s.mem.read a = m a) {a : Word}
    (ha : a.toNat ≤ 4094) : fetch { s with pc := a } = .ok (opcodeOf m a.toNat) := by
  have hop := opcodeAt_eq_joinBytes { s with pc := a }
  rw [fetch_ok _ ha, ← hop, opcodeOf, opcodeAt, ← hm, ← hm]

theorem bcdDigits_getElem? (vx : Byte) {k : Nat} (h : k < 3) :
    (bcdDigits vx)[k]? = some (decimalDigit vx k) := by
  interval_cases k <;> rfl

theorem ldB_read (x : Reg) (s : State) (a : Nat) : (effect (.ldB x) s).mem.read a =
    memAfterStore s 3 (decimalDigit (s.reg x)) a :=
  storeBytes_read rfl (fun _ => bcdDigits_getElem? _) a

theorem stRegs_read (x : Reg) (s : State) (a : Nat) : (effect (.stRegs x) s).mem.read a =
    memAfterStore s x.val (fun k => s.reg (Fin.ofNat 16 k)) a := by
  refine storeBytes_read (State.firstRegs_length s _ (by omega)) (fun k hk => ?_) a
  have hmod : Fin.ofNat 16 k = ⟨k, by omega⟩ := Fin.ext (Nat.mod_eq_of_lt (by omega))
  rw [State.firstRegs_getElem? s _ k (by omega) hk, hmod]

/-- Each digit is below 10, so it fits in a byte (R123). -/
theorem decimalDigit_toNat (vx : Byte) (k : Nat) : (decimalDigit vx k).toNat =
    if k = 0 then vx.toNat / 100 else if k = 1 then vx.toNat / 10 % 10 else vx.toNat % 10 := by
  have hlt := vx.isLt
  rw [decimalDigit, BitVec.toNat_ofNat, Nat.mod_eq_of_lt]
  split
  · omega
  · split <;> omega

theorem quiet_stRegs_of {x : Reg} {s : State} (h : x = 0 ∨ s.i.toNat + x.val ≤ 4096) :
    quiet (.stRegs x) s := quiet_stRegs.2 (h.imp_left (congrArg Fin.val))

theorem quiet_ldRegs_of {x : Reg} {s : State} (h : x = 0 ∨ s.i.toNat + x.val ≤ 4096) :
    quiet (.ldRegs x) s := quiet_ldRegs.2 (h.imp_left (congrArg Fin.val))

/-- Settles O21: both stores leave MEM reading as `memAfterStore` says, and a fetch reads MEM. -/
theorem storesAreSeenByFetch : Obligations.StoresAreSeenByFetch := by
  refine ⟨fun x s hi => ?_, fun x s hi => ?_⟩
  · exact ⟨_, exec_of_quiet (quiet_ldB.2 hi), fun a ha => fetch_eq_opcodeOf (ldB_read x s) ha⟩
  · exact ⟨_, exec_of_quiet (quiet_stRegs_of hi),
      fun a ha => fetch_eq_opcodeOf (stRegs_read x s) ha⟩

/-- Settles O38: the three digits are stored at I, or the fault is taken. -/
theorem storeDecimalDigits : Obligations.StoreDecimalDigits := by
  refine ⟨decodesAs_of_classF (by decide) (by decide) decodeClassF_of_kk33, fun x s hi => ?_,
    fun x s hi => exec_preIncrement_of_raises (i := .ldB x) ⟨hi, rfl⟩⟩
  have hdigit : ∀ k, k < 3 → ((effect (.ldB x) s).mem.read (s.baseAddr + k)).toNat =
      (decimalDigit (s.reg x) k).toNat := fun k hk => by rw [ldB_read, memAfterStore_at _ hk]
  simp only [decimalDigit_toNat] at hdigit
  exact ⟨_, exec_of_quiet (quiet_ldB.2 hi), onlyMem_storeBytes s rfl, hdigit 0 (by decide),
    hdigit 1 (by decide), hdigit 2 (by decide)⟩

/-- Settles O39: V0 to V(X-1) are stored at I, or the fault is taken. -/
theorem storeRegistersBelowX : Obligations.StoreRegistersBelowX := by
  refine ⟨decodesAs_of_classF (by decide) (by decide) decodeClassF_of_kk55, fun x s hi => ?_,
    fun x s hx hi => exec_preIncrement_of_raises (i := .stRegs x) ⟨?_, ?_, rfl⟩⟩
  · refine ⟨_, exec_of_quiet (quiet_stRegs_of hi),
      onlyMem_storeBytes s (State.firstRegs_length s _ (by omega)), fun k hk => ?_⟩
    rw [stRegs_read, memAfterStore_at _ hk, Fin.ofNat_val_eq_self]
  · exact Fin.pos_iff_ne_zero.2 hx
  · omega

/-! ## Loads from I -/

theorem onlyRegs_setFirstRegs (s : State) {x : Reg} {bs : List Byte} (h : bs.length = x.val) :
    onlyRegs ((List.finRange 16).filter (fun r => r < x)) s (s.setFirstRegs bs) :=
  ⟨sameRegsBut_setFirstRegs s h, rfl, rfl, ⟨rfl, rfl⟩, ⟨rfl, rfl⟩, fun _ => rfl, fun _ => rfl,
    ⟨rfl, rfl⟩, ⟨rfl, rfl⟩⟩

theorem ldRegs_reg {x k : Reg} (s : State) (h : k < x) :
    (effect (.ldRegs x) s).reg k = s.mem.read (s.baseAddr + k.val) := by
  have hlen : k.val < (s.loadBytes s.baseAddr x.val).length :=
    (Memory.length_readBytes _ _ _).symm ▸ h
  rw [effect, State.setFirstRegs_reg, dif_pos hlen]
  exact Memory.getElem_readBytes _ _ _ _ h

/-- Settles O40: V0 to V(X-1) are loaded from I, or the fault is taken. -/
theorem loadRegistersBelowX : Obligations.LoadRegistersBelowX := by
  refine ⟨decodesAs_of_classF (by decide) (by decide) decodeClassF_of_kk65, fun x s hi => ?_,
    fun x s hx hi => exec_preIncrement_of_raises (i := .ldRegs x) ⟨?_, ?_, rfl⟩⟩
  · exact ⟨_, exec_of_quiet (quiet_ldRegs_of hi),
      onlyRegs_setFirstRegs s (Memory.length_readBytes _ _ _), fun k hk => ldRegs_reg s hk⟩
  · exact Fin.pos_iff_ne_zero.2 hx
  · omega

end Sys2Proof.Machine
end

section
/-! PROOFS. The draw `DXYN`: which pixels it toggles, when it reports a collision, and what drawing
twice does (spec/44_display.md R131). -/

namespace Sys2Proof

theorem decodeWord_of_classD {w : Word} (h : fieldClass w = 0xD) :
    decodeWord w = .drw (fieldX w) (fieldY w) (fieldN w) := by
  simp [decodeWord, h]

end Sys2Proof

namespace Sys2Proof.Machine

/-! ## The cells a draw toggles -/

/-- The cells that the `n`-row sprite at I falls on, drawn at (vx mod 64, vy mod 32) (R131). -/
def drawnCells (s : State) (vx vy : Byte) (n : Nat) : List Nat :=
  spriteCells (vx.toNat % 64) (vy.toNat % 32) 0 (s.loadBytes s.baseAddr n)

section

variable {s : State} {vx vy : Byte} {n : Nat}

/-- The cells of the draw are those of the pixels of the sprite. -/
theorem mem_drawnCells {k : Nat} :
    k ∈ drawnCells s vx vy n ↔ ∃ px py, spritePixel s vx vy n px py ∧ k = py * 64 + px := by
  simp only [drawnCells, mem_spriteCells, State.loadBytes, Memory.length_readBytes]
  constructor
  · rintro ⟨r, hr, c, hc, hbit, rfl⟩
    rw [Memory.getElem_readBytes _ _ _ _ hr] at hbit
    exact ⟨_, _, ⟨r, c, hr, hc, hbit, rfl, rfl⟩, by rw [Nat.zero_add]⟩
  · rintro ⟨px, py, ⟨r, c, hr, hc, hbit, rfl, rfl⟩, rfl⟩
    refine ⟨r, hr, c, hc, ?_, by rw [Nat.zero_add]⟩
    rwa [Memory.getElem_readBytes _ _ _ _ hr]

theorem spritePixel_lt {px py : Nat} (h : spritePixel s vx vy n px py) : px < 64 ∧ py < 32 := by
  obtain ⟨r, c, -, -, -, rfl, rfl⟩ := h
  omega

/-- A cell is that of one pixel only, so the pixel tells whether the draw toggles it (R20). -/
theorem mem_drawnCells_pixel {px py : Nat} (hx : px < 64) :
    py * 64 + px ∈ drawnCells s vx vy n ↔ spritePixel s vx vy n px py := by
  rw [mem_drawnCells]
  constructor
  · rintro ⟨qx, qy, hq, e⟩
    have hqx := (spritePixel_lt hq).1
    obtain rfl : qx = px := by omega
    obtain rfl : qy = py := by omega
    exact hq
  · exact fun h => ⟨px, py, h, rfl⟩

theorem nodup_drawnCells (hn : n ≤ 32) : (drawnCells s vx vy n).Nodup :=
  nodup_spriteCells _ _ _ _ ((Memory.length_readBytes _ _ _).trans_le hn)

end

/-! ## What a draw leaves -/

section

variable {x y : Reg} {n : Nibble} {s : State}

/-- A draw toggles the cells of its sprite and no other. -/
theorem effect_drw_read (k : Nat) : (effect (.drw x y n) s).disp.read k =
    if k ∈ drawnCells s (s.reg x) (s.reg y) n.toNat then s.disp.read k ^^^ 0xFF
    else s.disp.read k :=
  blit_read (nodup_drawnCells (by omega)) s.disp false k

/-- VF after a draw says whether a cell of its sprite was on. -/
theorem effect_drw_flag : ∃ c, (effect (.drw x y n) s).reg 15 = flagByte c ∧
    (c = true ↔ ∃ k ∈ drawnCells s (s.reg x) (s.reg y) n.toNat, s.disp.read k ≠ 0x00) := by
  refine ⟨_, s.drawSprite_reg_flag _ _ _, ?_⟩
  exact (blit_collided (nodup_drawnCells (by omega)) s.disp false).trans
    (or_iff_right Bool.false_ne_true)

theorem effect_drw_flag_one {k : Nat} (hk : k ∈ drawnCells s (s.reg x) (s.reg y) n.toNat)
    (hon : s.disp.read k ≠ 0x00) : (effect (.drw x y n) s).reg 15 = 1 := by
  obtain ⟨c, hc, hiff⟩ := effect_drw_flag (x := x) (y := y) (n := n) (s := s)
  rw [hc, hiff.2 ⟨k, hk, hon⟩]
  rfl

theorem effect_drw_flag_zero (h : ∀ px py, spritePixel s (s.reg x) (s.reg y) n.toNat px py →
    s.disp.read (py * 64 + px) = 0x00) : (effect (.drw x y n) s).reg 15 = 0 := by
  obtain ⟨c, hc, hiff⟩ := effect_drw_flag (x := x) (y := y) (n := n) (s := s)
  have hfalse : c = false := by
    rw [← Bool.not_eq_true, hiff]
    rintro ⟨k, hk, hon⟩
    obtain ⟨px, py, hpix, rfl⟩ := mem_drawnCells.1 hk
    exact hon (h px py hpix)
  rw [hc, hfalse]
  rfl

theorem onlyDispRegs_drawSprite (s : State) (vx vy : Byte) (rows : List Byte) :
    onlyDispRegs [15] s (s.drawSprite vx vy rows) :=
  ⟨sameRegsBut_drawSprite s vx vy rows, rfl, rfl, ⟨rfl, rfl⟩, ⟨rfl, rfl⟩, fun _ => rfl, ⟨rfl, rfl⟩,
    ⟨rfl, rfl⟩⟩

theorem quiet_drw_of (h : n = 0 ∨ s.i.toNat + n.toNat ≤ 4096) : quiet (.drw x y n) s :=
  quiet_drw.2 (h.imp_left (congrArg BitVec.toNat))

end

/-- Settles O42: the blit toggles the cells of the sprite's pixels, each once, and notes whether one
was on; or the fault is taken. -/
theorem drawTogglesTheSpritePixels : Obligations.DrawTogglesTheSpritePixels := by
  refine ⟨decodesAs_of_class (by decide) decodeWord_of_classD, fun x y n s h => ?_,
    fun x y n s hn hi => exec_preIncrement_of_raises (i := .drw x y n) ⟨?_, ?_, rfl⟩⟩
  · refine ⟨_, exec_of_quiet (quiet_drw_of h), onlyDispRegs_drawSprite s _ _ _,
      fun px py hx hy => ⟨fun hp => ?_, fun hp => ?_⟩, fun k hk => ?_, ?_, effect_drw_flag_zero⟩
    · rw [effect_drw_read, if_pos ((mem_drawnCells_pixel hx).2 hp)]
    · rw [effect_drw_read, if_neg (fun hk => hp ((mem_drawnCells_pixel hx).1 hk))]
    · have hout : k ∉ drawnCells s (s.reg x) (s.reg y) n.toNat := fun hmem => by
        have hlt := spriteCells_lt hmem
        omega
      rw [effect_drw_read, if_neg hout]
    · rintro ⟨px, py, hp, hon⟩
      exact effect_drw_flag_one (mem_drawnCells.2 ⟨px, py, hp, rfl⟩) hon
  · have hne : n.toNat ≠ 0 := fun e => hn (BitVec.eq_of_toNat_eq e)
    omega
  · omega

/-- Settles O43: the second draw toggles the same cells, so each reads as at first, and one that was
off before the first is on before the second. -/
theorem drawingTwiceRestoresTheDisplay : Obligations.DrawingTwiceRestoresTheDisplay := by
  intro x y n s h
  refine ⟨effect (.drw x y n) s, effect (.drw x y n) (effect (.drw x y n) s),
    exec_of_quiet (quiet_drw_of h), exec_of_quiet (quiet_drw_of h), fun hx hy => ?_⟩
  have hcells : drawnCells (effect (.drw x y n) s) ((effect (.drw x y n) s).reg x)
      ((effect (.drw x y n) s).reg y) n.toNat = drawnCells s (s.reg x) (s.reg y) n.toNat := by
    rw [hx, hy]
    rfl
  refine ⟨fun k => ?_, effect_drw_flag_zero, ?_⟩
  · rw [effect_drw_read, hcells, effect_drw_read]
    split
    · rw [BitVec.xor_assoc, BitVec.xor_self, BitVec.xor_zero]
    · rfl
  · rintro ⟨px, py, hp, hoff⟩
    have hk := mem_drawnCells.2 ⟨px, py, hp, rfl⟩
    refine effect_drw_flag_one (hcells ▸ hk) ?_
    rw [effect_drw_read, if_pos hk, hoff]
    decide

end Sys2Proof.Machine
end
